-- ==== Sys2Proof/Word.lean ====
section
/-! DEFINITION. The widths of the CHIP-8 core as plain types: bytes, 16-bit words, the instruction
fields, and the index spaces of rule R65 (spec/20_memory.md). Notation of spec/00_scope.md R6 to R8. -/

namespace Sys2Proof

/-- `u8`: a general register, a timer, a memory cell, the immediate `nn` (R6, R8). -/
abbrev Byte := BitVec 8

/-- `u16`: `I`, `PC`, a call-stack entry, an instruction word (R6, R7). -/
abbrev Word := BitVec 16

/-- `u12`: the field `nnn` (R8). -/
abbrev Addr := BitVec 12

/-- `u4`: a nibble of the instruction word, such as the sprite height `n` (R8). -/
abbrev Nibble := BitVec 4

/-- A register index, the field `x` or `y`: 0 to 15 (R8, R65). -/
abbrev RegIdx := BitVec 4

/-- A key number, 0 to 15 (R27, R65; U6 of spec/93_implementation_defined.md: "the event takes a `Fin 16`"). -/
abbrev Key := Fin 16

/-- A pixel column, 0 to 63, left to right (R28, R65). -/
abbrev Col := Fin 64

/-- A pixel row, 0 to 31, top to bottom (R28, R65). -/
abbrev Row := Fin 32

end Sys2Proof
end

