-- ==== Sys2Proof/Syntax.lean ====
section
/-! DEFINITION. The 34 instructions of the execute table (spec/30_encoding.md R74), one constructor a row
of spec/opcode_table.json, each carrying its decoded operands (R83). The thirty-fifth kind of R83,
`Unknown(opcode)`, is no instruction: it is the decoder's other answer (Decode.lean). -/

namespace Sys2Proof

/-- An instruction with its operands (R74, R78). `x`, `y` are register indices, `nn` an immediate byte,
`nnn` a 12-bit address, `n` a row count. -/
inductive Instr where
  /-- `CLS` (R188). -/
  | cls
  /-- `RET` (R115). -/
  | ret
  /-- `JP nnn` (R116). -/
  | jp (nnn : Addr)
  /-- `CALL nnn` (R117). -/
  | call (nnn : Addr)
  /-- `SE Vx, nn` (R118). -/
  | seImm (x : RegIdx) (nn : Byte)
  /-- `SNE Vx, nn` (R119). -/
  | sneImm (x : RegIdx) (nn : Byte)
  /-- `SE Vx, Vy` (R120). -/
  | seReg (x y : RegIdx)
  /-- `SNE Vx, Vy` (R121). -/
  | sneReg (x y : RegIdx)
  /-- `LD Vx, nn` (R135). -/
  | ldImm (x : RegIdx) (nn : Byte)
  /-- `ADD Vx, nn` (R136). -/
  | addImm (x : RegIdx) (nn : Byte)
  /-- `LD Vx, Vy` (R137). -/
  | ldReg (x y : RegIdx)
  /-- `OR Vx, Vy` (R138). -/
  | orReg (x y : RegIdx)
  /-- `AND Vx, Vy` (R139). -/
  | andReg (x y : RegIdx)
  /-- `XOR Vx, Vy` (R140). -/
  | xorReg (x y : RegIdx)
  /-- `ADD Vx, Vy` (R141). -/
  | addReg (x y : RegIdx)
  /-- `SUB Vx, Vy` (R142). -/
  | sub (x y : RegIdx)
  /-- `SUBN Vx, Vy` (R143). -/
  | subn (x y : RegIdx)
  /-- `SHR Vx, Vy` (R144). -/
  | shr (x y : RegIdx)
  /-- `SHL Vx, Vy` (R145). -/
  | shl (x y : RegIdx)
  /-- `LD I, nnn` (R165). -/
  | ldI (nnn : Addr)
  /-- `JP V0, nnn` (R122). -/
  | jpV0 (nnn : Addr)
  /-- `RND Vx, nn` (R147). -/
  | rnd (x : RegIdx) (nn : Byte)
  /-- `DRW Vx, Vy, n` (R189). -/
  | drw (x y : RegIdx) (n : Nibble)
  /-- `SKP Vx` (R205). -/
  | skp (x : RegIdx)
  /-- `SKNP Vx` (R206). -/
  | sknp (x : RegIdx)
  /-- `LD Vx, DT` (R207). -/
  | ldVxDT (x : RegIdx)
  /-- `LD Vx, K` (R208). -/
  | ldVxK (x : RegIdx)
  /-- `LD DT, Vx` (R209). -/
  | ldDTVx (x : RegIdx)
  /-- `LD ST, Vx` (R210). -/
  | ldSTVx (x : RegIdx)
  /-- `ADD I, Vx` (R166). -/
  | addI (x : RegIdx)
  /-- `LD F, Vx` (R167). -/
  | ldF (x : RegIdx)
  /-- `LD B, Vx` (R168). -/
  | ldB (x : RegIdx)
  /-- `LD [I], Vx` (R169). -/
  | storeRegs (x : RegIdx)
  /-- `LD Vx, [I]` (R170). -/
  | loadRegs (x : RegIdx)
  deriving DecidableEq, Repr

end Sys2Proof
end

