-- ==== Sys2Proof/WellFormed.lean ====
section
/-! DEFINITION. When an instruction is well formed: every operand fits its field of the word
(spec/30_encoding.md R71, R78). The operand types of `Instr` have exactly the fields' widths, so the
check is written over the operands as numbers, where it can fail. -/

namespace Sys2Proof

/-- The operand fields of rule R71, by name. -/
inductive FieldName where
  | x | y | n | nn | nnn
  deriving DecidableEq, Repr

/-- The width of a field in bits (R71). -/
def FieldName.width : FieldName → Nat
  | .x => 4
  | .y => 4
  | .n => 4
  | .nn => 8
  | .nnn => 12

/-- An operand as a number beside the field that carries it. -/
structure Operand where
  field : FieldName
  value : Nat
  deriving DecidableEq, Repr

/-- The check: the value fits the field (R71: `x`, `y`, `n` are 0 to 15, `nn` 0 to 255, `nnn` 0 to 4095). -/
def Operand.fits (o : Operand) : Bool := decide (o.value < 2 ^ o.field.width)

/-- The operands of an instruction, in the order of the word's fields (R74). -/
def Instr.operands : Instr → List Operand
  | .cls => []
  | .ret => []
  | .jp nnn => [⟨.nnn, nnn.toNat⟩]
  | .call nnn => [⟨.nnn, nnn.toNat⟩]
  | .seImm x nn => [⟨.x, x.toNat⟩, ⟨.nn, nn.toNat⟩]
  | .sneImm x nn => [⟨.x, x.toNat⟩, ⟨.nn, nn.toNat⟩]
  | .seReg x y => [⟨.x, x.toNat⟩, ⟨.y, y.toNat⟩]
  | .sneReg x y => [⟨.x, x.toNat⟩, ⟨.y, y.toNat⟩]
  | .ldImm x nn => [⟨.x, x.toNat⟩, ⟨.nn, nn.toNat⟩]
  | .addImm x nn => [⟨.x, x.toNat⟩, ⟨.nn, nn.toNat⟩]
  | .ldReg x y => [⟨.x, x.toNat⟩, ⟨.y, y.toNat⟩]
  | .orReg x y => [⟨.x, x.toNat⟩, ⟨.y, y.toNat⟩]
  | .andReg x y => [⟨.x, x.toNat⟩, ⟨.y, y.toNat⟩]
  | .xorReg x y => [⟨.x, x.toNat⟩, ⟨.y, y.toNat⟩]
  | .addReg x y => [⟨.x, x.toNat⟩, ⟨.y, y.toNat⟩]
  | .sub x y => [⟨.x, x.toNat⟩, ⟨.y, y.toNat⟩]
  | .subn x y => [⟨.x, x.toNat⟩, ⟨.y, y.toNat⟩]
  | .shr x y => [⟨.x, x.toNat⟩, ⟨.y, y.toNat⟩]
  | .shl x y => [⟨.x, x.toNat⟩, ⟨.y, y.toNat⟩]
  | .ldI nnn => [⟨.nnn, nnn.toNat⟩]
  | .jpV0 nnn => [⟨.nnn, nnn.toNat⟩]
  | .rnd x nn => [⟨.x, x.toNat⟩, ⟨.nn, nn.toNat⟩]
  | .drw x y n => [⟨.x, x.toNat⟩, ⟨.y, y.toNat⟩, ⟨.n, n.toNat⟩]
  | .skp x => [⟨.x, x.toNat⟩]
  | .sknp x => [⟨.x, x.toNat⟩]
  | .ldVxDT x => [⟨.x, x.toNat⟩]
  | .ldVxK x => [⟨.x, x.toNat⟩]
  | .ldDTVx x => [⟨.x, x.toNat⟩]
  | .ldSTVx x => [⟨.x, x.toNat⟩]
  | .addI x => [⟨.x, x.toNat⟩]
  | .ldF x => [⟨.x, x.toNat⟩]
  | .ldB x => [⟨.x, x.toNat⟩]
  | .storeRegs x => [⟨.x, x.toNat⟩]
  | .loadRegs x => [⟨.x, x.toNat⟩]

/-- An instruction is well formed when each operand fits its field. -/
def WellFormed (i : Instr) : Bool := i.operands.all Operand.fits

end Sys2Proof
end

