-- ==== Sys2Proof/Decode.lean ====
section
/-! DEFINITION. The decoder and the encoder (spec/30_encoding.md R70 to R83). Decoding tests exactly the
fields rule R73 names; all other bits are operands or are ignored (R76, decision D1), so an alias word
decodes to the same instruction as the canonical word. The opcode values are the spec's table R74. -/

namespace Sys2Proof

/-! ## Fields (R8, R71) -/

/-- `op = opcode[15:12]`. -/
def fieldOp (w : Word) : Nibble := w.extractLsb' 12 4

/-- `x = opcode[11:8]`. -/
def fieldX (w : Word) : RegIdx := w.extractLsb' 8 4

/-- `y = opcode[7:4]`. -/
def fieldY (w : Word) : RegIdx := w.extractLsb' 4 4

/-- `n = opcode[3:0]`. -/
def fieldN (w : Word) : Nibble := w.extractLsb' 0 4

/-- `nn = opcode[7:0]`. -/
def fieldNN (w : Word) : Byte := w.extractLsb' 0 8

/-- `nnn = opcode[11:0]`. -/
def fieldNNN (w : Word) : Addr := w.extractLsb' 0 12

/-- Big-endian combination of two bytes: the byte at the lower address is `opcode[15:8]` (R53). -/
def wordOfBytes (hi lo : Byte) : Word := hi ++ lo

/-- The byte of a word that lies at the lower address (R53). -/
def highByte (w : Word) : Byte := w.extractLsb' 8 8

/-- The byte of a word that lies at the higher address (R53). -/
def lowByte (w : Word) : Byte := w.extractLsb' 0 8

/-! ## Decoding (R73, R74, R77, R83) -/

/-- What a word is: "either exactly one instruction of rule R74 with its operand fields, or unknown" (R83). -/
inductive Decoded where
  /-- A word whose selecting fields match a row of R74. -/
  | instr (i : Instr)
  /-- A word no dispatch arm takes (R77), kept for the diagnostic of R104. -/
  | unknown (opcode : Word)
  deriving DecidableEq, Repr

/-- The `op = 0` family: dispatch by `n` alone; `x` and `y` are ignored (R73, R76). -/
def decode0 (w : Word) : Decoded :=
  match fieldN w with
  | 0x0#4 => .instr .cls
  | 0xE#4 => .instr .ret
  | _ => .unknown w

/-- The `op = 8` family: dispatch by `n` (R73, R74 rows 11 to 19). -/
def decode8 (w : Word) : Decoded :=
  match fieldN w with
  | 0x0#4 => .instr (.ldReg (fieldX w) (fieldY w))
  | 0x1#4 => .instr (.orReg (fieldX w) (fieldY w))
  | 0x2#4 => .instr (.andReg (fieldX w) (fieldY w))
  | 0x3#4 => .instr (.xorReg (fieldX w) (fieldY w))
  | 0x4#4 => .instr (.addReg (fieldX w) (fieldY w))
  | 0x5#4 => .instr (.sub (fieldX w) (fieldY w))
  | 0x6#4 => .instr (.shr (fieldX w) (fieldY w))
  | 0x7#4 => .instr (.subn (fieldX w) (fieldY w))
  | 0xE#4 => .instr (.shl (fieldX w) (fieldY w))
  | _ => .unknown w

/-- The `op = E` family: dispatch by `n` alone; `y` is ignored (R73, R76). -/
def decodeE (w : Word) : Decoded :=
  match fieldN w with
  | 0xE#4 => .instr (.skp (fieldX w))
  | 0x1#4 => .instr (.sknp (fieldX w))
  | _ => .unknown w

/-- The `op = F` family: dispatch by the whole byte `nn` (R73, R74 rows 26 to 34). -/
def decodeF (w : Word) : Decoded :=
  match fieldNN w with
  | 0x07#8 => .instr (.ldVxDT (fieldX w))
  | 0x0A#8 => .instr (.ldVxK (fieldX w))
  | 0x15#8 => .instr (.ldDTVx (fieldX w))
  | 0x18#8 => .instr (.ldSTVx (fieldX w))
  | 0x1E#8 => .instr (.addI (fieldX w))
  | 0x29#8 => .instr (.ldF (fieldX w))
  | 0x33#8 => .instr (.ldB (fieldX w))
  | 0x55#8 => .instr (.storeRegs (fieldX w))
  | 0x65#8 => .instr (.loadRegs (fieldX w))
  | _ => .unknown w

/-- The decoder on a word: "Dispatch is by `op`, with secondary dispatch by `n` (for the `0x0`, `0x8`,
`0xE` families) or by `nn` (for the `0xF` family)" (R73). Total on all 65536 words (R83). -/
def decodeWord (w : Word) : Decoded :=
  match fieldOp w with
  | 0x0#4 => decode0 w
  | 0x1#4 => .instr (.jp (fieldNNN w))
  | 0x2#4 => .instr (.call (fieldNNN w))
  | 0x3#4 => .instr (.seImm (fieldX w) (fieldNN w))
  | 0x4#4 => .instr (.sneImm (fieldX w) (fieldNN w))
  | 0x5#4 => .instr (.seReg (fieldX w) (fieldY w))
  | 0x6#4 => .instr (.ldImm (fieldX w) (fieldNN w))
  | 0x7#4 => .instr (.addImm (fieldX w) (fieldNN w))
  | 0x8#4 => decode8 w
  | 0x9#4 => .instr (.sneReg (fieldX w) (fieldY w))
  | 0xA#4 => .instr (.ldI (fieldNNN w))
  | 0xB#4 => .instr (.jpV0 (fieldNNN w))
  | 0xC#4 => .instr (.rnd (fieldX w) (fieldNN w))
  | 0xD#4 => .instr (.drw (fieldX w) (fieldY w) (fieldN w))
  | 0xE#4 => decodeE w
  | 0xF#4 => decodeF w
  | _ => .unknown w

/-- What the decoder makes of bytes as they lie in memory, the lowest address first, with the bytes left
over. -/
inductive DecodeResult where
  /-- An instruction and the bytes after it. -/
  | instr (i : Instr) (rest : List Byte)
  /-- Rejected by name: the two bytes are an unknown opcode (R77). -/
  | unknownOpcode (opcode : Word) (rest : List Byte)
  /-- Rejected by name: fewer than the two bytes every instruction has (R70). -/
  | truncated (bytes : List Byte)
  deriving DecidableEq, Repr

/-- The decoder on any bytes: two bytes an instruction, high byte first (R53, R70). -/
def decode : List Byte → DecodeResult
  | hi :: lo :: rest =>
    match decodeWord (wordOfBytes hi lo) with
    | .instr i => .instr i rest
    | .unknown w => .unknownOpcode w rest
  | bytes => .truncated bytes

/-! ## Encoding (the canonical patterns of R74) -/

/-- Format A of R72: `op`, `nnn`. -/
def formatA (op : Nibble) (nnn : Addr) : Word := op ++ nnn

/-- Formats XK and X of R72: `op`, `x`, `nn`. -/
def formatXK (op : Nibble) (x : RegIdx) (nn : Byte) : Word := op ++ x ++ nn

/-- Formats Z, XY and XYN of R72: `op`, `x`, `y`, `n`. -/
def formatXYN (op : Nibble) (x y : RegIdx) (n : Nibble) : Word := op ++ x ++ y ++ n

/-- The canonical word of an instruction: R74's pattern column with the operand letters replaced, the
ignored bits as the pattern prints them. -/
def encode : Instr → Word
  | .cls => formatXYN 0x0#4 0x0#4 0xE#4 0x0#4
  | .ret => formatXYN 0x0#4 0x0#4 0xE#4 0xE#4
  | .jp nnn => formatA 0x1#4 nnn
  | .call nnn => formatA 0x2#4 nnn
  | .seImm x nn => formatXK 0x3#4 x nn
  | .sneImm x nn => formatXK 0x4#4 x nn
  | .seReg x y => formatXYN 0x5#4 x y 0x0#4
  | .sneReg x y => formatXYN 0x9#4 x y 0x0#4
  | .ldImm x nn => formatXK 0x6#4 x nn
  | .addImm x nn => formatXK 0x7#4 x nn
  | .ldReg x y => formatXYN 0x8#4 x y 0x0#4
  | .orReg x y => formatXYN 0x8#4 x y 0x1#4
  | .andReg x y => formatXYN 0x8#4 x y 0x2#4
  | .xorReg x y => formatXYN 0x8#4 x y 0x3#4
  | .addReg x y => formatXYN 0x8#4 x y 0x4#4
  | .sub x y => formatXYN 0x8#4 x y 0x5#4
  | .subn x y => formatXYN 0x8#4 x y 0x7#4
  | .shr x y => formatXYN 0x8#4 x y 0x6#4
  | .shl x y => formatXYN 0x8#4 x y 0xE#4
  | .ldI nnn => formatA 0xA#4 nnn
  | .jpV0 nnn => formatA 0xB#4 nnn
  | .rnd x nn => formatXK 0xC#4 x nn
  | .drw x y n => formatXYN 0xD#4 x y n
  | .skp x => formatXK 0xE#4 x 0x9E#8
  | .sknp x => formatXK 0xE#4 x 0xA1#8
  | .ldVxDT x => formatXK 0xF#4 x 0x07#8
  | .ldVxK x => formatXK 0xF#4 x 0x0A#8
  | .ldDTVx x => formatXK 0xF#4 x 0x15#8
  | .ldSTVx x => formatXK 0xF#4 x 0x18#8
  | .addI x => formatXK 0xF#4 x 0x1E#8
  | .ldF x => formatXK 0xF#4 x 0x29#8
  | .ldB x => formatXK 0xF#4 x 0x33#8
  | .storeRegs x => formatXK 0xF#4 x 0x55#8
  | .loadRegs x => formatXK 0xF#4 x 0x65#8

/-- The encoder on bytes, in the order they lie in memory (R53). -/
def encodeBytes (i : Instr) : List Byte := [highByte (encode i), lowByte (encode i)]

/-! ## The selecting bits of each instruction (spec/opcode_table.json, loose reading of R76) -/

/-- The bits the dispatch of R73 tests for an instruction: the table's `mask`. -/
def selectMask : Instr → Word
  | .cls => 0xF00F#16
  | .ret => 0xF00F#16
  | .jp _ => 0xF000#16
  | .call _ => 0xF000#16
  | .seImm _ _ => 0xF000#16
  | .sneImm _ _ => 0xF000#16
  | .seReg _ _ => 0xF000#16
  | .sneReg _ _ => 0xF000#16
  | .ldImm _ _ => 0xF000#16
  | .addImm _ _ => 0xF000#16
  | .ldReg _ _ => 0xF00F#16
  | .orReg _ _ => 0xF00F#16
  | .andReg _ _ => 0xF00F#16
  | .xorReg _ _ => 0xF00F#16
  | .addReg _ _ => 0xF00F#16
  | .sub _ _ => 0xF00F#16
  | .subn _ _ => 0xF00F#16
  | .shr _ _ => 0xF00F#16
  | .shl _ _ => 0xF00F#16
  | .ldI _ => 0xF000#16
  | .jpV0 _ => 0xF000#16
  | .rnd _ _ => 0xF000#16
  | .drw _ _ _ => 0xF000#16
  | .skp _ => 0xF00F#16
  | .sknp _ => 0xF00F#16
  | .ldVxDT _ => 0xF0FF#16
  | .ldVxK _ => 0xF0FF#16
  | .ldDTVx _ => 0xF0FF#16
  | .ldSTVx _ => 0xF0FF#16
  | .addI _ => 0xF0FF#16
  | .ldF _ => 0xF0FF#16
  | .ldB _ => 0xF0FF#16
  | .storeRegs _ => 0xF0FF#16
  | .loadRegs _ => 0xF0FF#16

/-- The value those bits have: the table's `match`. -/
def selectMatch : Instr → Word
  | .cls => 0x0000#16
  | .ret => 0x000E#16
  | .jp _ => 0x1000#16
  | .call _ => 0x2000#16
  | .seImm _ _ => 0x3000#16
  | .sneImm _ _ => 0x4000#16
  | .seReg _ _ => 0x5000#16
  | .sneReg _ _ => 0x9000#16
  | .ldImm _ _ => 0x6000#16
  | .addImm _ _ => 0x7000#16
  | .ldReg _ _ => 0x8000#16
  | .orReg _ _ => 0x8001#16
  | .andReg _ _ => 0x8002#16
  | .xorReg _ _ => 0x8003#16
  | .addReg _ _ => 0x8004#16
  | .sub _ _ => 0x8005#16
  | .subn _ _ => 0x8007#16
  | .shr _ _ => 0x8006#16
  | .shl _ _ => 0x800E#16
  | .ldI _ => 0xA000#16
  | .jpV0 _ => 0xB000#16
  | .rnd _ _ => 0xC000#16
  | .drw _ _ _ => 0xD000#16
  | .skp _ => 0xE00E#16
  | .sknp _ => 0xE001#16
  | .ldVxDT _ => 0xF007#16
  | .ldVxK _ => 0xF00A#16
  | .ldDTVx _ => 0xF015#16
  | .ldSTVx _ => 0xF018#16
  | .addI _ => 0xF01E#16
  | .ldF _ => 0xF029#16
  | .ldB _ => 0xF033#16
  | .storeRegs _ => 0xF055#16
  | .loadRegs _ => 0xF065#16

/-! ## The host's view of the opcode table -/

/-- The word whose bits are `w`, as spec/opcode_table.json numbers them: one 16-bit word, bits at and above
`nbits` zero. -/
def tableWord (nbits w : Nat) : Word := BitVec.ofNat 16 (w % 2 ^ nbits)

/-- The instruction the decoder reads from the table's bits `w`, laid out in memory order (R53). -/
def decodeTableWord (nbits w : Nat) : Option Instr :=
  match decode [highByte (tableWord nbits w), lowByte (tableWord nbits w)] with
  | .instr i _ => some i
  | .unknownOpcode _ _ => none
  | .truncated _ => none

end Sys2Proof
end

