-- ==== Sys2Proof/Machine/Font.lean ====
section
/-! DEFINITION. The font sprite table: the default value of the parameter `FONT` (spec/20_memory.md R52,
decision D12: the bytes are general knowledge, printed by the spec). Log entry 5. -/

namespace Sys2Proof.Machine

/-- Glyphs 0 to 7, five bytes each, top row first (R52). -/
def fontLow : List Byte :=
  [0xF0#8, 0x90#8, 0x90#8, 0x90#8, 0xF0#8,
   0x20#8, 0x60#8, 0x20#8, 0x20#8, 0x70#8,
   0xF0#8, 0x10#8, 0xF0#8, 0x80#8, 0xF0#8,
   0xF0#8, 0x10#8, 0xF0#8, 0x10#8, 0xF0#8,
   0x90#8, 0x90#8, 0xF0#8, 0x10#8, 0x10#8,
   0xF0#8, 0x80#8, 0xF0#8, 0x10#8, 0xF0#8,
   0xF0#8, 0x80#8, 0xF0#8, 0x90#8, 0xF0#8,
   0xF0#8, 0x10#8, 0x20#8, 0x40#8, 0x40#8]

/-- Glyphs 8 to F (R52). -/
def fontHigh : List Byte :=
  [0xF0#8, 0x90#8, 0xF0#8, 0x90#8, 0xF0#8,
   0xF0#8, 0x90#8, 0xF0#8, 0x10#8, 0xF0#8,
   0xF0#8, 0x90#8, 0xF0#8, 0x90#8, 0x90#8,
   0xE0#8, 0x90#8, 0xE0#8, 0x90#8, 0xE0#8,
   0xF0#8, 0x80#8, 0x80#8, 0x80#8, 0xF0#8,
   0xE0#8, 0x90#8, 0x90#8, 0x90#8, 0xE0#8,
   0xF0#8, 0x80#8, 0xF0#8, 0x80#8, 0xF0#8,
   0xF0#8, 0x80#8, 0xF0#8, 0x80#8, 0x80#8]

/-- `FONT`: "16 glyphs × 5 bytes, loaded at address 0x000" (R52). -/
def font : List Byte := fontLow ++ fontHigh

end Sys2Proof.Machine
end

