-- ==== Sys2Proof/Config.lean ====
section
/-! DEFINITION. What the spec leaves open and the model does not choose: the random oracle (R147,
decision D9) and the values the two quirk flags are constructed with (R5, R29, decision D8). Each is
an opaque constant: nothing can be proved about its value, so whatever is proved holds for every value.
The font table is not here: spec/20_memory.md R52 prints its bytes (Machine/Font.lean). -/

namespace Sys2Proof

/-- `Rand8()` of rule R147: the byte of the `k`-th draw of a run. A FREE VALUE: "any u8; an input of the
step, not state". The counter `State.draws` supplies a fresh index at every `RND`. Log entry 1. -/
opaque Config.rand8 : Nat → Byte

/-- `DISPLAY_WAIT` as the core was constructed (R29: "Fixed at construction", no value given; D8 `OPEN`).
`State.reset` copies it into the state. Log entry 2. -/
opaque Config.displayWait : Bool

/-- `CLIP_ON_DRAW` as the core was constructed (R29; D8 `OPEN`). Log entry 2. -/
opaque Config.clipOnDraw : Bool

end Sys2Proof
end

