-- ==== Sys2Proof/Machine/State.lean ====
section
/-! DEFINITION. The whole state of the core (spec/10_state.md R20: "The whole state of the core is the
following, and nothing else"), the six faults (spec/60_exceptions.md R230), the events that move the core
(spec/00_scope.md R13), and the state after reset (R36). Two fields are the model's own and not the
spec's: `draws` (log entry 1) and `script` (log entry 3). -/

namespace Sys2Proof.Machine

/-- The six fault causes with their information words (R230). A fault of this core is not a stop of the
model: R231 describes its entry, so the event that raises it answers a NEXT state in which the register
`FAULT` holds the cause, and R233 describes the stopped core. No definition of the model answers
`Host.Outcome.fault` (log entry 4). -/
inductive Fault where
  /-- Code 1. Raised by `CALL nnn` at `SP = 16`; information word the `pc` of the `CALL` (R117, decision D3).
  Safe: the core freezes where the source leaves the behaviour undefined. -/
  | stackOverflow (pc : Word)
  /-- Code 2. Raised by `RET` at `SP = 0`; information word the `pc` of the `RET` (R115, D3). Safe, as above. -/
  | stackUnderflow (pc : Word)
  /-- Code 3. Raised by `DRW`, `LD B, Vx`, `LD [I], Vx`, `LD Vx, [I]` when the accessed range leaves memory;
  information word `I` (R56, D4). Safe, as above. -/
  | memBounds (index : Word)
  /-- Code 4. Raised by `CYCLE` at the fetch when `PC > 0xFFE`; information word `PC` (R57, D5). Safe, as above. -/
  | fetchBounds (pc : Word)
  /-- Code 5. Raised by `SKP Vx` and `SKNP Vx` when `Vx > 15`; information word `Vx` (R205, R206, D6). Safe, as
  above. -/
  | keyIndex (vx : Byte)
  /-- Code 6. Raised by `LOAD_ROM` on more than 3584 bytes; information word the length (R262, D19). Safe, as
  above. -/
  | romTooLarge (length : Nat)
  deriving DecidableEq, Repr

/-- Why the model would give an instruction no meaning. Every instruction of the table has one, so nothing
answers it. -/
inductive Refusal where
  /-- An arm of `exec` whose instruction has no meaning yet; no arm is in that case. Safe: a refused step
  proves nothing about the hardware. -/
  | notModelled (mnemonic : String)
  deriving DecidableEq, Repr

/-- The wait-for-key machine: "states: `Idle`, `KeyLatched(key)`" (R31, R208). -/
inductive Wait where
  | idle
  | latched (k : Key)
  deriving DecidableEq, Repr

/-- The atomic events of rule R13, one at a time and totally ordered (R60, R108). -/
inductive Event where
  /-- `RESET` (R260). -/
  | reset
  /-- `LOAD_FONT` (R261). -/
  | loadFont
  /-- `LOAD_ROM(bytes)` (R262). -/
  | loadRom (bytes : List Byte)
  /-- `CYCLE` (R100). -/
  | cycle
  /-- `TIMER_TICK` (R241). -/
  | timerTick
  /-- `KEY_PRESS(k)` (R242). -/
  | keyPress (k : Key)
  /-- `KEY_RELEASE(k)` (R243). -/
  | keyRelease (k : Key)
  /-- `END_FRAME` (R244). -/
  | endFrame
  /-- `SNAPSHOT` (R245). -/
  | snapshot
  deriving DecidableEq, Repr

/-- The state of the core (R20). Memory is the list of cells that differ from the reset contents, sorted by
address (`memWf` of Machine/Ops.lean). -/
@[ext]
structure State where
  /-- `V[0..15]`, 8 bits each; `V[15]` is the flag register `VF` (R21, R22). -/
  v : Vector Byte 16
  /-- `I`, the index register, any 16-bit value (R23). -/
  i : Word
  /-- `PC` (R24). -/
  pc : Word
  /-- `STACK[0..15]`, 16 bits each, outside `MEM` (R25). -/
  stack : Vector Word 16
  /-- `SP`, the number of entries in use, 0 to 16 (R25). -/
  sp : Fin 17
  /-- `DT`, the delay timer (R26). -/
  dt : Byte
  /-- `ST`, the sound timer (R26). -/
  st : Byte
  /-- `KEY[0..15]`, true while held down (R27). -/
  keys : Vector Bool 16
  /-- `FB`: 32 rows, top first, of 64 one-bit pixels; bit `x` of row `y` is the pixel `FB[y][x]` (R28). -/
  fb : Vector (BitVec 64) 32
  /-- `DRAW_FLAG`, "draw occurred this frame" (R30). -/
  drawFlag : Bool
  /-- `WAIT` (R31). -/
  wait : Wait
  /-- `FAULT`: `none`, or the cause and information word of the fault that stopped the core (R32). -/
  fault : Option Fault
  /-- `MEM`: the cells that differ from the reset contents (R33, R50). -/
  mem : List Host.Cell
  /-- `DISPLAY_WAIT`, constant for a run (R29). -/
  displayWait : Bool
  /-- `CLIP_ON_DRAW`, constant for a run (R29). -/
  clipOnDraw : Bool
  /-- The model's own: how many bytes `RND` has drawn; the index of the next free value (log entry 1). -/
  draws : Nat
  /-- The model's own: the events the host will issue, in order; when it is empty the host issues `CYCLE`
  (R246; log entry 3). -/
  script : List Event
  deriving DecidableEq, Repr

/-- The state after `RESET` (R36), the model's own fields at 0 and empty (DESIGN CHOICE, log entries 1 and 3).
Memory lists nothing: an unlisted cell holds its reset contents, the font and zeros. -/
def State.reset : State where
  v := Vector.replicate 16 0x00#8
  i := 0x0000#16
  pc := 0x0200#16
  stack := Vector.replicate 16 0x0000#16
  sp := 0
  dt := 0x00#8
  st := 0x00#8
  keys := Vector.replicate 16 false
  fb := Vector.replicate 32 0#64
  drawFlag := false
  wait := .idle
  fault := none
  mem := []
  displayWait := Config.displayWait
  clipOnDraw := Config.clipOnDraw
  draws := 0
  script := []

end Sys2Proof.Machine
end

