-- ==== Sys2Proof/Machine/Ops.lean ====
section
/-! DEFINITION. The named operations over memory, registers, the call stack, the keypad and the fault
register that the instruction rules are written with (spec/00_scope.md R9 to R12). Taking a fault is
`State.raise` (R231); there is no return from one (R234). -/

namespace Sys2Proof.Machine

/-! ## Memory (R50, R56, R57, R10) -/

/-- The number of cells (R50). -/
def memSize : Nat := 4096

/-- What an unlisted cell reads as: its contents after `RESET`, the font at 0x000 to 0x04F and 0x00 elsewhere
(R36; the zeros rest on decision D7, log entry 6). -/
def resetByte (a : Nat) : Byte := font.getD a 0x00#8

/-- The byte at an address of the memory list. -/
def memByte : List Host.Cell → Nat → Byte
  | [], a => resetByte a
  | (k, b) :: rest, a => if k = a then b else memByte rest a

/-- Drop the entry of an address. -/
def memErase (m : List Host.Cell) (a : Nat) : List Host.Cell := m.filter fun c => c.1 != a

/-- Put an entry before the first larger address. -/
def memInsert : List Host.Cell → Nat → Byte → List Host.Cell
  | [], a, b => [(a, b)]
  | (k, c) :: rest, a, b => if a < k then (a, b) :: (k, c) :: rest else (k, c) :: memInsert rest a b

/-- Write one byte, keeping the canonical form: sorted by address, nothing listed that equals the reset
contents. -/
def memPut (m : List Host.Cell) (a : Nat) (b : Byte) : List Host.Cell :=
  if b = resetByte a then memErase m a else memInsert (memErase m a) a b

/-- The `n` bytes from address `a` up, lowest address first. -/
def memBytes (m : List Host.Cell) (a : Nat) : Nat → List Byte
  | 0 => []
  | n + 1 => memByte m a :: memBytes m (a + 1) n

/-- Write bytes from address `a` up. -/
def memPuts (m : List Host.Cell) (a : Nat) : List Byte → List Host.Cell
  | [] => m
  | b :: bs => memPuts (memPut m a b) (a + 1) bs

/-- The bounds test of R56 and R10: an access of `n` bytes at `a` lies wholly inside memory, in unbounded
integers; an access of no bytes always does (conflict C14). -/
def inBounds (a n : Nat) : Bool := decide (n = 0 ∨ a + n ≤ memSize)

/-- `MemRead(a, n)` (R10): `none` where it raises `MemBounds`. -/
def memRead (m : List Host.Cell) (a n : Nat) : Option (List Byte) :=
  if inBounds a n then some (memBytes m a n) else none

/-- `MemWrite(a, n, bytes)` (R10): `none` where it raises `MemBounds`; then no byte has moved. -/
def memWrite (m : List Host.Cell) (a : Nat) (bytes : List Byte) : Option (List Host.Cell) :=
  if inBounds a bytes.length then some (memPuts m a bytes) else none

/-- All addresses of the list are above `lo` and inside memory, rising, and no entry equals the reset
contents. -/
def memSortedFrom : Nat → List Host.Cell → Bool
  | _, [] => true
  | lo, (k, b) :: rest =>
    decide (lo ≤ k) && decide (k < memSize) && decide (b ≠ resetByte k) && memSortedFrom (k + 1) rest

/-- The canonical form of memory: equal memories are equal lists. -/
def memWf (m : List Host.Cell) : Bool := memSortedFrom 0 m

/-! ## Registers (R9, R21 to R26) -/

/-- `V[x]`. -/
def State.reg (s : State) (x : RegIdx) : Byte := s.v[x.toNat]'x.isLt

/-- `V[x] <- b`. -/
def State.setReg (s : State) (x : RegIdx) (b : Byte) : State :=
  { s with v := s.v.set x.toNat b x.isLt }

/-- The index of `VF`, the flag register (R22). -/
def vF : RegIdx := 0xF#4

/-- `V0..Vx` as bytes, `V0` first (R169). -/
def State.regsUpTo (s : State) (x : RegIdx) : List Byte := s.v.toList.take (x.toNat + 1)

/-- `V[j] <- bytes[j]` for every `j` the list has; the registers above are unchanged (R170). -/
def State.loadRegList (s : State) (bytes : List Byte) : State :=
  { s with v := Vector.ofFn fun j => bytes.getD j.val (s.v[j.val]'j.isLt) }

/-- `I <- w`. -/
def State.setI (s : State) (w : Word) : State := { s with i := w }

/-- `pc <- target`. -/
def State.setPc (s : State) (w : Word) : State := { s with pc := w }

/-- `pc <- pc + 2`, the default (R106 class a), `mod 65536`. -/
def State.advance (s : State) : State := s.setPc (s.pc + 2#16)

/-- `pc += 4 if condition true else += 2` (R106 class b). -/
def State.skipIf (s : State) (c : Bool) : State := if c then s.setPc (s.pc + 4#16) else s.advance

/-- `DT <- b`. -/
def State.setDt (s : State) (b : Byte) : State := { s with dt := b }

/-- `ST <- b`. -/
def State.setSt (s : State) (b : Byte) : State := { s with st := b }

/-- Replace memory. -/
def State.setMem (s : State) (m : List Host.Cell) : State := { s with mem := m }

/-- Replace the framebuffer. -/
def State.setFb (s : State) (f : Vector (BitVec 64) 32) : State := { s with fb := f }

/-- `DRAW_FLAG <- b`. -/
def State.setDrawFlag (s : State) (b : Bool) : State := { s with drawFlag := b }

/-- `WAIT <- w`. -/
def State.setWait (s : State) (w : Wait) : State := { s with wait := w }

/-- `KEY[k]`. -/
def State.key (s : State) (k : Key) : Bool := s.keys[k.val]'k.isLt

/-- `KEY[k] <- b`. -/
def State.setKey (s : State) (k : Key) (b : Bool) : State := { s with keys := s.keys.set k.val b k.isLt }

/-- One more byte has been drawn (log entry 1). -/
def State.countDraw (s : State) : State := { s with draws := s.draws + 1 }

/-- Replace the host's script (log entry 3). -/
def State.setScript (s : State) (es : List Event) : State := { s with script := es }

/-! ## The call stack (R25) -/

/-- `STACK[SP] <- w; SP <- SP + 1`, or `none` at `SP = 16`. -/
def State.push (s : State) (w : Word) : Option State :=
  if h : s.sp.val < 16 then
    some { s with stack := s.stack.set s.sp.val w h, sp := ⟨s.sp.val + 1, by omega⟩ }
  else none

/-- `SP <- SP - 1`, and the entry at the new `SP`; `none` at `SP = 0`. The entry keeps its value. -/
def State.pop (s : State) : Option (Word × State) :=
  if h : 0 < s.sp.val then
    some (s.stack[s.sp.val - 1]'(by omega), { s with sp := ⟨s.sp.val - 1, by omega⟩ })
  else none

/-! ## Taking a fault (R230, R231) -/

/-- The code of a fault (R230). -/
def Fault.code : Fault → Nat
  | .stackOverflow _ => 1
  | .stackUnderflow _ => 2
  | .memBounds _ => 3
  | .fetchBounds _ => 4
  | .keyIndex _ => 5
  | .romTooLarge _ => 6

/-- The information word of a fault (R230). -/
def Fault.info : Fault → Nat
  | .stackOverflow pc => pc.toNat
  | .stackUnderflow pc => pc.toNat
  | .memBounds i => i.toNat
  | .fetchBounds pc => pc.toNat
  | .keyIndex vx => vx.toNat
  | .romTooLarge n => n

/-- Fault entry: "`FAULT <- (cause, information word)`, and nothing else changes" (R231). -/
def State.raise (s : State) (f : Fault) : State := { s with fault := some f }

/-- The shape of an instruction that can fault: every fault condition is tested before the first write
(R231), so the operation that tests it comes first and the rest is what happens when it succeeds. -/
def orRaise {α : Type} (r : Option α) (f : Fault) (s : State) (k : α → State) :
    Host.Outcome State Fault Refusal :=
  match r with
  | some a => .next (k a)
  | none => .next (s.raise f)

/-- What a host event does to a core that is not stopped; a stopped core it leaves unchanged (R233). -/
def State.whenRunning (s : State) (t : State) : State :=
  match s.fault with
  | none => t
  | some _ => s

/-! ## Fetch (R53, R57, R103) -/

/-- `Fetch(pc)`: the big-endian word at `PC`, whatever its parity (R55), or `none` when `PC > 0xFFE`. -/
def State.fetch (s : State) : Option Word :=
  if s.pc.toNat ≤ 0xFFE then
    some (wordOfBytes (memByte s.mem s.pc.toNat) (memByte s.mem (s.pc.toNat + 1)))
  else none

end Sys2Proof.Machine
end

