-- ==== Sys2Proof/Machine/Operands.lean ====
section
/-! DEFINITION. Operand forms: how the fields of a word and the registers become values, addresses, key
numbers and pixel coordinates (spec/30_encoding.md R78; spec/43_index_memory.md R171; spec/44_display.md
R189). Nothing is sign-extended, scaled or shifted (R78). -/

namespace Sys2Proof.Machine

/-- `zext_16(nnn)`: a 12-bit address as a 16-bit word (R78). -/
def addrWord (nnn : Addr) : Word := nnn.setWidth 16

/-- `zext_16(vx)`: a byte as a 16-bit word (R78). -/
def byteWord (b : Byte) : Word := b.setWidth 16

/-- The first address of every data access: "the byte at `I + j`", in unbounded integers (R171). -/
def State.dataAddr (s : State) : Nat := s.i.toNat

/-- The number of registers a block store or load moves: `x + 1` (R169, R170). -/
def blockLen (x : RegIdx) : Nat := x.toNat + 1

/-- `(I + x + 1) mod 65536`, what a block store or load leaves in `I` (R169, R170). -/
def State.blockEnd (s : State) (x : RegIdx) : Word := BitVec.ofNat 16 (s.i.toNat + blockLen x)

/-- The address of glyph `vx`: `zext_16(vx) * 5`, the whole byte multiplied (R167). -/
def glyphAddr (vx : Byte) : Word := byteWord vx * 5#16

/-- The three decimal digits, hundreds first, each a plain byte (R168). -/
def bcdDigits (vx : Byte) : List Byte :=
  [BitVec.ofNat 8 (vx.toNat / 100), BitVec.ofNat 8 (vx.toNat / 10 % 10), BitVec.ofNat 8 (vx.toNat % 10)]

/-- The key a register names: `none` when `vx > 15`, which faults (R205, decision D6). -/
def keyOf (vx : Byte) : Option Key := if h : vx.toNat < 16 then some ⟨vx.toNat, h⟩ else none

/-- A key number as a byte: "zero-extended to 8 bits" (R208). -/
def keyByte (k : Key) : Byte := BitVec.ofNat 8 k.val

/-- The keys from 0 up, the order of the "first found" scan (R208). -/
def keyScan : List Key := [0, 1, 2, 3, 4, 5, 6, 7, 8, 9, 10, 11, 12, 13, 14, 15]

/-- "the least such k": the lowest-numbered key that is down (R208). -/
def State.firstKey (s : State) : Option Key := keyScan.find? s.key

/-- The column of a sprite's origin, `vx mod 64` (R189). -/
def originCol (vx : Byte) : Nat := vx.toNat % 64

/-- The row of a sprite's origin, `vy mod 32` (R189). -/
def originRow (vy : Byte) : Nat := vy.toNat % 32

/-- The sprite bit of column `col`, bit `7 - col`: the most significant bit is the leftmost pixel (R192,
decision D13). -/
def spriteBit (b : Byte) (col : Nat) : Bool := b.getLsbD (7 - col)

/-- The pixel a set sprite bit reaches: itself when inside the screen; else dropped under clip-on-draw and
wrapped without it (R189). -/
def targetPixel (clip : Bool) (px py : Nat) : Option (Col × Row) :=
  if h : px < 64 ∧ py < 32 then some (⟨px, h.1⟩, ⟨py, h.2⟩)
  else if clip then none
  else some (⟨px % 64, Nat.mod_lt _ (by decide)⟩, ⟨py % 32, Nat.mod_lt _ (by decide)⟩)

end Sys2Proof.Machine
end

