-- ==== Sys2Proof/Machine/Flags.lean ====
section
/-! DEFINITION. Every flag computation of the spec: what `VF` receives (spec/10_state.md R22;
spec/42_alu.md R146) and the order in which result and flag are written (spec/40_cycle.md R107). -/

namespace Sys2Proof.Machine

/-- `b ? 1 : 0` (R11). -/
def flagByte (b : Bool) : Byte := if b then 1#8 else 0#8

/-- Carry of `ADD Vx, Vy`: "VF = 1 iff unsigned sum > 255" (R141, R146). -/
def carryFlag (a b : Byte) : Bool := decide (a.toNat + b.toNat > 255)

/-- No borrow of `a - b`: the minuend is greater than or equal to the subtrahend (R142, R143, R146). -/
def noBorrowFlag (a b : Byte) : Bool := decide (a.toNat ≥ b.toNat)

/-- The bit `SHR` shifts out: bit 0 of the source (R144). -/
def shiftOutLow (b : Byte) : Bool := b.getLsbD 0

/-- The bit `SHL` shifts out: bit 7 of the source (R145). -/
def shiftOutHigh (b : Byte) : Bool := b.getLsbD 7

/-- `VF <- b ? 1 : 0`. -/
def State.setFlag (s : State) (b : Bool) : State := s.setReg vF (flagByte b)

/-- Result and flag of a flag-writing instruction: "the result goes to `V[x]` first and the flag to `VF`
last" (R107, decision D2). -/
def State.setResultAndFlag (s : State) (x : RegIdx) (result : Byte) (flag : Bool) : State :=
  (s.setReg x result).setFlag flag

end Sys2Proof.Machine
end

