-- ==== Sys2Proof/Machine/Alu.lean ====
section
/-! DEFINITION. Register load and arithmetic-logic instructions (spec/42_alu.md R135 to R147). Source
operands are read before anything is written; the flag is written last (R107). -/

namespace Sys2Proof.Machine

/-- `LD Vx, nn` (R135). -/
def execLdImm (x : RegIdx) (nn : Byte) (s : State) : Host.Outcome State Fault Refusal :=
  .next (s.setReg x nn).advance

/-- `ADD Vx, nn` (R136): "8-bit wraparound add, no flag effect". -/
def execAddImm (x : RegIdx) (nn : Byte) (s : State) : Host.Outcome State Fault Refusal :=
  .next (s.setReg x (s.reg x + nn)).advance

/-- `LD Vx, Vy` (R137). -/
def execLdReg (x y : RegIdx) (s : State) : Host.Outcome State Fault Refusal :=
  .next (s.setReg x (s.reg y)).advance

/-- `OR Vx, Vy` (R138): `VF` cleared last. -/
def execOrReg (x y : RegIdx) (s : State) : Host.Outcome State Fault Refusal :=
  .next (s.setResultAndFlag x (s.reg x ||| s.reg y) false).advance

/-- `AND Vx, Vy` (R139): `VF` cleared last. -/
def execAndReg (x y : RegIdx) (s : State) : Host.Outcome State Fault Refusal :=
  .next (s.setResultAndFlag x (s.reg x &&& s.reg y) false).advance

/-- `XOR Vx, Vy` (R140): `VF` cleared last. -/
def execXorReg (x y : RegIdx) (s : State) : Host.Outcome State Fault Refusal :=
  .next (s.setResultAndFlag x (s.reg x ^^^ s.reg y) false).advance

/-- `ADD Vx, Vy` (R141): `VF` = carry. -/
def execAddReg (x y : RegIdx) (s : State) : Host.Outcome State Fault Refusal :=
  .next (s.setResultAndFlag x (s.reg x + s.reg y) (carryFlag (s.reg x) (s.reg y))).advance

/-- `SUB Vx, Vy` (R142): `Vx - Vy`, `VF` = no borrow. -/
def execSub (x y : RegIdx) (s : State) : Host.Outcome State Fault Refusal :=
  .next (s.setResultAndFlag x (s.reg x - s.reg y) (noBorrowFlag (s.reg x) (s.reg y))).advance

/-- `SUBN Vx, Vy` (R143): `Vy - Vx`, `VF` = no borrow; the destination is still `V[x]`. -/
def execSubn (x y : RegIdx) (s : State) : Host.Outcome State Fault Refusal :=
  .next (s.setResultAndFlag x (s.reg y - s.reg x) (noBorrowFlag (s.reg y) (s.reg x))).advance

/-- `SHR Vx, Vy` (R144): the source is `V[y]`. -/
def execShr (x y : RegIdx) (s : State) : Host.Outcome State Fault Refusal :=
  .next (s.setResultAndFlag x (s.reg y >>> 1) (shiftOutLow (s.reg y))).advance

/-- `SHL Vx, Vy` (R145): the source is `V[y]`. -/
def execShl (x y : RegIdx) (s : State) : Host.Outcome State Fault Refusal :=
  .next (s.setResultAndFlag x (s.reg y <<< 1) (shiftOutHigh (s.reg y))).advance

/-- `RND Vx, nn` (R147): a fresh free byte masked with `nn`. -/
def execRnd (x : RegIdx) (nn : Byte) (s : State) : Host.Outcome State Fault Refusal :=
  .next ((s.setReg x (Config.rand8 s.draws &&& nn)).countDraw).advance

end Sys2Proof.Machine
end

