-- ==== Sys2Proof/Machine/Control.lean ====
section
/-! DEFINITION. Control transfer: `RET`, `JP`, `CALL`, the four skips on registers, `JP V0`
(spec/41_control.md R115 to R122). -/

namespace Sys2Proof.Machine

/-- `RET` (R115): `pc` from the entry at the new `SP`; `StackUnderflow(pc)` at `SP = 0`. -/
def execRet (s : State) : Host.Outcome State Fault Refusal :=
  orRaise s.pop (.stackUnderflow s.pc) s fun r => r.2.setPc r.1

/-- `JP nnn` (R116). -/
def execJp (nnn : Addr) (s : State) : Host.Outcome State Fault Refusal :=
  .next (s.setPc (addrWord nnn))

/-- `CALL nnn` (R117): pushes `pc + 2`; `StackOverflow(pc)` at `SP = 16`. -/
def execCall (nnn : Addr) (s : State) : Host.Outcome State Fault Refusal :=
  orRaise (s.push (s.pc + 2#16)) (.stackOverflow s.pc) s fun t => t.setPc (addrWord nnn)

/-- `SE Vx, nn` (R118). -/
def execSeImm (x : RegIdx) (nn : Byte) (s : State) : Host.Outcome State Fault Refusal :=
  .next (s.skipIf (s.reg x == nn))

/-- `SNE Vx, nn` (R119). -/
def execSneImm (x : RegIdx) (nn : Byte) (s : State) : Host.Outcome State Fault Refusal :=
  .next (s.skipIf (s.reg x != nn))

/-- `SE Vx, Vy` (R120). -/
def execSeReg (x y : RegIdx) (s : State) : Host.Outcome State Fault Refusal :=
  .next (s.skipIf (s.reg x == s.reg y))

/-- `SNE Vx, Vy` (R121). -/
def execSneReg (x y : RegIdx) (s : State) : Host.Outcome State Fault Refusal :=
  .next (s.skipIf (s.reg x != s.reg y))

/-- `JP V0, nnn` (R122): always `V[0]`, the sum not reduced to 12 bits. -/
def execJpV0 (nnn : Addr) (s : State) : Host.Outcome State Fault Refusal :=
  .next (s.setPc (byteWord (s.reg 0#4) + addrWord nnn))

end Sys2Proof.Machine
end

