-- ==== Sys2Proof/Machine/Display.lean ====
section
/-! DEFINITION. The Framebuffer component and the instructions that use it (spec/44_display.md R185 to
R192). -/

namespace Sys2Proof.Machine

/-- `FB[y][x]` (R28). -/
def pixel (f : Vector (BitVec 64) 32) (x : Col) (y : Row) : Bool := (f[y.val]'y.isLt).getLsbD x.val

/-- The framebuffer half of `Toggle(x, y)`: "flips the pixel at `(x, y)`" (R185). What it returns is
`pixel f x y`, the pixel before the flip. -/
def toggle (f : Vector (BitVec 64) 32) (x : Col) (y : Row) : Vector (BitVec 64) 32 :=
  f.set y.val (f[y.val]'y.isLt ^^^ BitVec.twoPow 64 x.val) y.isLt

/-- `Clear()`: "sets every pixel to off" (R186). -/
def clearFb : Vector (BitVec 64) 32 := Vector.replicate 32 0#64

/-- The pixels one sprite row reaches, left to right (R189, inner loop). -/
def rowPixels (clip : Bool) (ox py : Nat) (b : Byte) : List (Col × Row) :=
  [0, 1, 2, 3, 4, 5, 6, 7].filterMap fun col =>
    if spriteBit b col then targetPixel clip (ox + col) py else none

/-- The pixels a sprite reaches, row by row from `py` down (R189, outer loop). -/
def spritePixels (clip : Bool) (ox : Nat) : Nat → List Byte → List (Col × Row)
  | _, [] => []
  | py, b :: rows => rowPixels clip ox py b ++ spritePixels clip ox (py + 1) rows

/-- Toggle pixels one after the other, ORing what each `Toggle` returns into the running collision flag
(R189). -/
def drawPixels (f : Vector (BitVec 64) 32) (hit : Bool) : List (Col × Row) → Vector (BitVec 64) 32 × Bool
  | [] => (f, hit)
  | (x, y) :: rest => drawPixels (toggle f x y) (hit || pixel f x y) rest

/-- The draw algorithm on the sprite's bytes: the new framebuffer and the collision flag (R189). -/
def State.drawSprite (s : State) (vx vy : Byte) (sprite : List Byte) : Vector (BitVec 64) 32 × Bool :=
  drawPixels s.fb false (spritePixels s.clipOnDraw (originCol vx) (originRow vy) sprite)

/-- `CLS` (R188): `VF` and `DRAW_FLAG` are not written (decision D25). -/
def execCls (s : State) : Host.Outcome State Fault Refusal :=
  .next (s.setFb clearFb).advance

/-- `DRW Vx, Vy, n` (R189): the whole sprite is bounds-checked first (decision D22); `VF` = collision, written
last; `DRAW_FLAG <- 1` in both settings of `DISPLAY_WAIT` (R191). -/
def execDrw (x y : RegIdx) (n : Nibble) (s : State) : Host.Outcome State Fault Refusal :=
  orRaise (memRead s.mem s.dataAddr n.toNat) (.memBounds s.i) s fun sprite =>
    let r := s.drawSprite (s.reg x) (s.reg y) sprite
    (((s.setFb r.1).setFlag r.2).setDrawFlag true).advance

end Sys2Proof.Machine
end

