-- ==== Sys2Proof/Machine/Index.lean ====
section
/-! DEFINITION. The index register, the BCD store and the block store and load
(spec/43_index_memory.md R165 to R171). -/

namespace Sys2Proof.Machine

/-- `LD I, nnn` (R165). -/
def execLdI (nnn : Addr) (s : State) : Host.Outcome State Fault Refusal :=
  .next (s.setI (addrWord nnn)).advance

/-- `ADD I, Vx` (R166): `mod 65536`, no flag, no fault. -/
def execAddI (x : RegIdx) (s : State) : Host.Outcome State Fault Refusal :=
  .next (s.setI (s.i + byteWord (s.reg x))).advance

/-- `LD F, Vx` (R167). -/
def execLdF (x : RegIdx) (s : State) : Host.Outcome State Fault Refusal :=
  .next (s.setI (glyphAddr (s.reg x))).advance

/-- `LD B, Vx` (R168): three bytes at `I`; `I` unchanged; `MemBounds(I)` when the range leaves memory. -/
def execLdB (x : RegIdx) (s : State) : Host.Outcome State Fault Refusal :=
  orRaise (memWrite s.mem s.dataAddr (bcdDigits (s.reg x))) (.memBounds s.i) s
    fun m => (s.setMem m).advance

/-- `LD [I], Vx` (R169): `V0..Vx` to `[I..]`, then `I` advances by `x + 1`. -/
def execStoreRegs (x : RegIdx) (s : State) : Host.Outcome State Fault Refusal :=
  orRaise (memWrite s.mem s.dataAddr (s.regsUpTo x)) (.memBounds s.i) s
    fun m => ((s.setMem m).setI (s.blockEnd x)).advance

/-- `LD Vx, [I]` (R170): `V0..Vx` from `[I..]`, then `I` advances by `x + 1`. -/
def execLoadRegs (x : RegIdx) (s : State) : Host.Outcome State Fault Refusal :=
  orRaise (memRead s.mem s.dataAddr (blockLen x)) (.memBounds s.i) s
    fun bytes => ((s.loadRegList bytes).setI (s.blockEnd x)).advance

end Sys2Proof.Machine
end

