-- ==== Sys2Proof/Machine/Keypad.lean ====
section
/-! DEFINITION. The keypad and timer instructions (spec/45_keypad_timers.md R205 to R211). -/

namespace Sys2Proof.Machine

/-- `SKP Vx` (R205): `KeyIndex(vx)` when `vx > 15`, no masking (decision D6). -/
def execSkp (x : RegIdx) (s : State) : Host.Outcome State Fault Refusal :=
  orRaise (keyOf (s.reg x)) (.keyIndex (s.reg x)) s fun k => s.skipIf (s.key k)

/-- `SKNP Vx` (R206). -/
def execSknp (x : RegIdx) (s : State) : Host.Outcome State Fault Refusal :=
  orRaise (keyOf (s.reg x)) (.keyIndex (s.reg x)) s fun k => s.skipIf (!s.key k)

/-- `LD Vx, DT` (R207). -/
def execLdVxDT (x : RegIdx) (s : State) : Host.Outcome State Fault Refusal :=
  .next (s.setReg x s.dt).advance

/-- `LD Vx, K` (R208): one execution of the wait-for-key machine. `pc` advances only on completion. -/
def execLdVxK (x : RegIdx) (s : State) : Host.Outcome State Fault Refusal :=
  match s.wait with
  | .idle =>
    match s.firstKey with
    | some k => .next (s.setWait (.latched k))
    | none => .next s
  | .latched k =>
    if s.key k then .next s
    else .next ((s.setReg x (keyByte k)).setWait .idle).advance

/-- `LD DT, Vx` (R209). -/
def execLdDTVx (x : RegIdx) (s : State) : Host.Outcome State Fault Refusal :=
  .next (s.setDt (s.reg x)).advance

/-- `LD ST, Vx` (R210). -/
def execLdSTVx (x : RegIdx) (s : State) : Host.Outcome State Fault Refusal :=
  .next (s.setSt (s.reg x)).advance

end Sys2Proof.Machine
end

