-- ==== Sys2Proof/Machine/Events.lean ====
section
/-! DEFINITION. The host events other than `CYCLE` (spec/60_exceptions.md R240 to R247;
spec/70_reset_and_hazards.md R260 to R262). Each is defined in every state; a stopped core takes none of
them but `RESET` and `SNAPSHOT` (R233). -/

namespace Sys2Proof.Machine

/-- A timer's decrement: "clamped at 0 (never decrement below 0)" (R241). -/
def decTimer (b : Byte) : Byte := if b = 0#8 then 0#8 else b - 1#8

/-- `TIMER_TICK` (R241): both timers, independently. -/
def timerTick (s : State) : State := s.whenRunning ((s.setDt (decTimer s.dt)).setSt (decTimer s.st))

/-- `KEY_PRESS(k)` (R242). -/
def keyPress (k : Key) (s : State) : State := s.whenRunning (s.setKey k true)

/-- `KEY_RELEASE(k)` (R243). -/
def keyRelease (k : Key) (s : State) : State := s.whenRunning (s.setKey k false)

/-- `END_FRAME` (R244). -/
def endFrame (s : State) : State := s.whenRunning (s.setDrawFlag false)

/-- What `SNAPSHOT` returns: "the full pixel grid for rendering" (R187, R245); it changes nothing. -/
def snapshot (s : State) : Vector (BitVec 64) 32 := s.fb

/-- `SOUND_ACTIVE = (ST > 0)`, a derived output (R247, decision D24). -/
def soundActive (s : State) : Bool := decide (s.st.toNat > 0)

/-- `LOAD_FONT` (R261): `MemWrite(0x000, 80, FONT)`. -/
def loadFont (s : State) : State := s.whenRunning (s.setMem (memPuts s.mem 0x000 font))

/-- Where a ROM is loaded and where the program starts (R5, R51). -/
def romBase : Nat := 0x200

/-- The longest ROM: 3584 bytes (R262). -/
def romMax : Nat := 3584

/-- `LOAD_ROM(bytes)` (R262): verbatim from 0x200; `RomTooLarge(len)` before any byte is written. -/
def loadRom (bytes : List Byte) (s : State) : State :=
  s.whenRunning
    (if bytes.length > romMax then s.raise (.romTooLarge bytes.length)
     else s.setMem (memPuts s.mem romBase bytes))

/-- `RESET` (R260): every piece of state takes the value of R36, in every state, the stopped one included.
"The quirk flags keep the values the model was given"; the model's own fields go on (log entries 1, 3). -/
def resetCore (s : State) : State :=
  { State.reset with
    displayWait := s.displayWait, clipOnDraw := s.clipOnDraw, draws := s.draws, script := s.script }

end Sys2Proof.Machine
end

