-- ==== Sys2Proof/Machine/Cycle.lean ====
section
/-! DEFINITION. The `CYCLE` event (spec/40_cycle.md R100 to R108), the application of any event, and the
host's next event. -/

namespace Sys2Proof.Machine

/-- The display-wait gate is closed: `DISPLAY_WAIT and DRAW_FLAG = 1` (R102). -/
def State.gateClosed (s : State) : Bool := s.drawFlag && s.displayWait

/-- `CYCLE` (R100), its steps in order: the stopped core (R101), the display-wait gate (R102), the fetch with
its bounds (R103), decode (R105), the unknown opcode, which changes nothing, `PC` included (R104), and the
instruction. -/
def cycle (s : State) : Host.Outcome State Fault Refusal :=
  match s.fault with
  | some _ => .next s
  | none =>
    if s.gateClosed then .next s
    else
      match s.fetch with
      | none => .next (s.raise (.fetchBounds s.pc))
      | some w =>
        match decodeWord w with
        | .instr i => exec i s
        | .unknown _ => .next s

/-- The optional output `Diag(opcode)` a `CYCLE` would emit: the word, when an unknown opcode is fetched
(R104, decision D18). It is an output, no state, and nothing reads it. -/
def cycleDiag (s : State) : Option Word :=
  match s.fault with
  | some _ => none
  | none =>
    if s.gateClosed then none
    else
      match s.fetch with
      | none => none
      | some w =>
        match decodeWord w with
        | .instr _ => none
        | .unknown op => some op

/-- One atomic event (R13, R108). -/
def applyEvent (e : Event) (s : State) : Host.Outcome State Fault Refusal :=
  match e with
  | .reset => .next (resetCore s)
  | .loadFont => .next (loadFont s)
  | .loadRom bytes => .next (loadRom bytes s)
  | .cycle => cycle s
  | .timerTick => .next (timerTick s)
  | .keyPress k => .next (keyPress k s)
  | .keyRelease k => .next (keyRelease k s)
  | .endFrame => .next (endFrame s)
  | .snapshot => .next s

/-- A sequence of events in the order the host issues them (R246). -/
def applyEvents : List Event → State → Host.Outcome State Fault Refusal
  | [], s => .next s
  | e :: es, s =>
    match applyEvent e s with
    | .next t => applyEvents es t
    | .fault f => .fault f
    | .refused r => .refused r

/-- The event the host issues next: the head of its script, or `CYCLE` when the script is empty (log
entry 3). -/
def State.nextEvent (s : State) : Event :=
  match s.script with
  | [] => .cycle
  | e :: _ => e

/-- The state with that event taken off the script. -/
def State.takeEvent (s : State) : State := s.setScript s.script.tail

/-- Store an instruction word at an address, big-endian (R53). -/
def storeWord (m : List Host.Cell) (a : Nat) (w : Word) : List Host.Cell :=
  memPuts m a [highByte w, lowByte w]

/-- The state made ready so that the next event is a `CYCLE` that reaches the fetch: a host event waiting in
the script is dropped, a stopped core is let go, a closed gate is opened, and a `PC` outside the fetchable
range goes to 0x200. Nothing else changes; at `State.reset` nothing at all does. -/
def State.readyToFetch (s : State) : State :=
  { s with
    script := (match s.nextEvent with | .cycle => s.script | _ => [])
    fault := none
    drawFlag := (if s.gateClosed then false else s.drawFlag)
    pc := (if s.pc.toNat ≤ 0xFFE then s.pc else 0x0200#16) }

/-- Place a word where the next `CYCLE` fetches. -/
def State.placeWord (s : State) (w : Word) : State :=
  s.readyToFetch.setMem (storeWord s.mem s.readyToFetch.pc.toNat w)

end Sys2Proof.Machine
end

