-- ==== Sys2Proof/Machine/Step.lean ====
section
/-! DEFINITION. One step of the machine: the host's next event applied to the core (spec/00_scope.md R13,
spec/60_exceptions.md R240, R246). With an empty script a step is one `CYCLE`. -/

namespace Sys2Proof.Machine

/-- One step: take the host's next event off its script and apply it. -/
def step (s : State) : Host.Outcome State Fault Refusal :=
  applyEvent s.nextEvent s.takeEvent

/-- The state with the opcode table's word placed where `step` fetches its next instruction. -/
def State.withFetchWord (s : State) (nbits w : Nat) : State := s.placeWord (tableWord nbits w)

end Sys2Proof.Machine
end

