-- ==== Sys2Proof/Safety.lean ====
section
/-! DEFINITION. What counts as a safe and as a settled state, the invariants, and the words frame statements
are made of: the parts of the state, and "nothing but these parts differs". -/

namespace Sys2Proof.Machine

/-! ## Safe, settled -/

/-- The core is not stopped: `FAULT = None` (R32, R233). A safe run is one whose states are all running. -/
abbrev State.Running (s : State) : Prop := s.fault = none

/-- The next `CYCLE` executes the instruction `i`: not stopped, gate open, and the word fetched decodes to it
(R100). -/
def State.Executes (s : State) (i : Instr) : Prop :=
  s.fault = none ∧ s.gateClosed = false ∧ ∃ w, s.fetch = some w ∧ decodeWord w = .instr i

/-- "a program has settled at address `a`": `PC = a`, `FAULT = None`, and the word at `a` is `JP a` (R264). -/
def State.SettledAt (s : State) (a : Addr) : Prop :=
  s.pc = addrWord a ∧ s.fault = none ∧ s.fetch = some (0x1#4 ++ a)

/-! ## Invariants -/

/-- What every step keeps (R38 and the canonical form of memory): `PC <= 0x10FE`, every stack entry is at most
0x1000, memory is in its canonical form. -/
def State.Inv (s : State) : Prop :=
  memWf s.mem = true ∧ s.pc.toNat ≤ 0x10FE ∧ ∀ w ∈ s.stack.toList, w.toNat ≤ 0x1000

/-- `WAIT` is `Idle` whenever the instruction at `PC` is not a `LD Vx, K` in progress (R31). -/
def State.WaitInv (s : State) : Prop :=
  s.wait ≠ .idle → ∃ w x, s.fetch = some w ∧ decodeWord w = .instr (.ldVxK x)

/-- The event writes the program's memory from outside (R66, R58). -/
def Event.isLoad : Event → Bool
  | .loadFont => true
  | .loadRom _ => true
  | .reset => false
  | .cycle => false
  | .timerTick => false
  | .keyPress _ => false
  | .keyRelease _ => false
  | .endFrame => false
  | .snapshot => false

/-! ## Sprites -/

/-- The pixel `(px, py)` is toggled by a sprite of `n` rows at `I`, drawn from `(vx, vy)`: some set sprite bit has
it as its target, the coordinates dropped or wrapped at the edges as `CLIP_ON_DRAW` says (R189, R192). -/
def State.Covers (s : State) (vx vy : Byte) (n : Nat) (px : Col) (py : Row) : Prop :=
  ∃ row col, row < n ∧ col < 8 ∧ (memByte s.mem (s.i.toNat + row)).getLsbD (7 - col) = true ∧
    (if s.clipOnDraw then vx.toNat % 64 + col = px.val ∧ vy.toNat % 32 + row = py.val
     else (vx.toNat % 64 + col) % 64 = px.val ∧ (vy.toNat % 32 + row) % 32 = py.val)

/-! ## Reset values -/

/-- The table of R36, row by row: what holds right after `RESET`, but for the quirk flags. -/
def State.HasResetValues (s : State) : Prop :=
  s.pc = 0x0200#16 ∧ (∀ a, a < 80 → memByte s.mem a = font.getD a 0x00#8) ∧
  (∀ a, 80 ≤ a → memByte s.mem a = 0x00#8) ∧ (∀ x, s.reg x = 0x00#8) ∧ s.i = 0x0000#16 ∧ s.sp.val = 0 ∧
  (∀ w ∈ s.stack.toList, w = 0x0000#16) ∧ s.dt = 0x00#8 ∧ s.st = 0x00#8 ∧ (∀ k, s.key k = false) ∧
  (∀ px py, pixel s.fb px py = false) ∧
  s.drawFlag = false ∧ s.wait = .idle ∧ s.fault = none

/-! ## Frames -/

/-- `MEM[a]`. -/
def State.byte (s : State) (a : Nat) : Byte := memByte s.mem a

/-- The parts of the state, as the columns of R37's access table and the fields no instruction writes. -/
inductive Part where
  | regs | index | pc | stack | sp | dt | st | keys | fb | drawFlag | wait | fault | mem
  | displayWait | clipOnDraw | draws | script
  deriving DecidableEq, Repr

/-- A part is the same in two states; memory is compared through the read of one byte. -/
def Part.Same (p : Part) (s t : State) : Prop :=
  match p with
  | .regs => ∀ x, t.reg x = s.reg x
  | .index => t.i = s.i
  | .pc => t.pc = s.pc
  | .stack => t.stack = s.stack
  | .sp => t.sp = s.sp
  | .dt => t.dt = s.dt
  | .st => t.st = s.st
  | .keys => t.keys = s.keys
  | .fb => t.fb = s.fb
  | .drawFlag => t.drawFlag = s.drawFlag
  | .wait => t.wait = s.wait
  | .fault => t.fault = s.fault
  | .mem => ∀ a, t.byte a = s.byte a
  | .displayWait => t.displayWait = s.displayWait
  | .clipOnDraw => t.clipOnDraw = s.clipOnDraw
  | .draws => t.draws = s.draws
  | .script => t.script = s.script

/-- Every part but the listed ones is the same in both states. -/
def SameBut (ps : List Part) (s t : State) : Prop := ∀ p, p ∉ ps → p.Same s t

/-- Every general register but the listed ones is the same in both states. -/
def RegsBut (xs : List RegIdx) (s t : State) : Prop := ∀ x, x ∉ xs → t.reg x = s.reg x

/-- Every byte of memory outside `[a, a + n)` reads the same in both states. -/
def BytesBut (a n : Nat) (s t : State) : Prop := ∀ b, b < a ∨ a + n ≤ b → t.byte b = s.byte b

/-- The parts each instruction may write when it completes: the "w" entries of R37's access table, `PC`
included; `RND` also advances the model's own counter of draws (log entry 1). -/
def writesOf : Instr → List Part
  | .cls => [.fb, .pc]
  | .ret => [.sp, .pc]
  | .jp _ => [.pc]
  | .call _ => [.stack, .sp, .pc]
  | .seImm _ _ => [.pc]
  | .sneImm _ _ => [.pc]
  | .seReg _ _ => [.pc]
  | .sneReg _ _ => [.pc]
  | .ldImm _ _ => [.regs, .pc]
  | .addImm _ _ => [.regs, .pc]
  | .ldReg _ _ => [.regs, .pc]
  | .orReg _ _ => [.regs, .pc]
  | .andReg _ _ => [.regs, .pc]
  | .xorReg _ _ => [.regs, .pc]
  | .addReg _ _ => [.regs, .pc]
  | .sub _ _ => [.regs, .pc]
  | .subn _ _ => [.regs, .pc]
  | .shr _ _ => [.regs, .pc]
  | .shl _ _ => [.regs, .pc]
  | .ldI _ => [.index, .pc]
  | .jpV0 _ => [.pc]
  | .rnd _ _ => [.regs, .pc, .draws]
  | .drw _ _ _ => [.regs, .fb, .drawFlag, .pc]
  | .skp _ => [.pc]
  | .sknp _ => [.pc]
  | .ldVxDT _ => [.regs, .pc]
  | .ldVxK _ => [.regs, .wait, .pc]
  | .ldDTVx _ => [.dt, .pc]
  | .ldSTVx _ => [.st, .pc]
  | .addI _ => [.index, .pc]
  | .ldF _ => [.index, .pc]
  | .ldB _ => [.mem, .pc]
  | .storeRegs _ => [.mem, .index, .pc]
  | .loadRegs _ => [.regs, .index, .pc]

end Sys2Proof.Machine
end

