-- ==== Sys2Proof/Certificates/Slice0/Obligations.lean ====
section
/-! DEFINITION. The statements for the provers, from the numbered rules of spec/. An instruction's statement
says which words decode to it (the selecting bits and operand fields as spec/opcode_table.json numbers them),
that `exec` answers a next state and what that state holds, what is left unchanged (`SameBut`, `RegsBut`,
`BytesBut` of Safety.lean), and where it takes a fault. The opcode values are those the spec's table R74 prints
(decision D20). -/

open Sys2Proof Sys2Proof.Machine

/-! ## Control transfer -/

/-- R115: `RET` pops into `PC`; at `SP = 0` it takes `StackUnderflow(pc)` (spec decision D3). -/
def Obligations.RetPopsOrUnderflows : Prop :=
  (∀ w : Word, w &&& 0xF00F#16 = 0x000E#16 → decodeWord w = .instr .ret) ∧
  ∀ s : State,
    (∀ h : 0 < s.sp.val, ∃ t, exec .ret s = .next t ∧ t.sp.val = s.sp.val - 1 ∧
      t.pc = s.stack[s.sp.val - 1] ∧ SameBut [.sp, .pc] s t) ∧
    (s.sp.val = 0 → exec .ret s = .next (s.raise (.stackUnderflow s.pc)))

/-- R116: `JP nnn` assigns `PC` the zero-extended address. -/
def Obligations.JpAssignsPc : Prop :=
  (∀ w : Word, w &&& 0xF000#16 = 0x1000#16 → decodeWord w = .instr (.jp (w.extractLsb' 0 12))) ∧
  ∀ (s : State) (nnn : Addr), ∃ t, exec (.jp nnn) s = .next t ∧ t.pc.toNat = nnn.toNat ∧ SameBut [.pc] s t

/-- R117: `CALL nnn` pushes `pc + 2` and jumps; at `SP = 16` it takes `StackOverflow(pc)` (spec decision D3). -/
def Obligations.CallPushesOrOverflows : Prop :=
  (∀ w : Word, w &&& 0xF000#16 = 0x2000#16 → decodeWord w = .instr (.call (w.extractLsb' 0 12))) ∧
  ∀ (s : State) (nnn : Addr),
    (∀ h : s.sp.val < 16, ∃ t, exec (.call nnn) s = .next t ∧
      (t.stack[s.sp.val]).toNat = (s.pc.toNat + 2) % 65536 ∧
      (∀ j, ∀ hj : j < 16, j ≠ s.sp.val → t.stack[j] = s.stack[j]) ∧
      t.sp.val = s.sp.val + 1 ∧ t.pc.toNat = nnn.toNat ∧ SameBut [.stack, .sp, .pc] s t) ∧
    (s.sp.val = 16 → exec (.call nnn) s = .next (s.raise (.stackOverflow s.pc)))

/-- R118, R119: the skips on an immediate; no register is written. -/
def Obligations.SkipsOnImmediate : Prop :=
  (∀ w : Word, w &&& 0xF000#16 = 0x3000#16 →
    decodeWord w = .instr (.seImm (w.extractLsb' 8 4) (w.extractLsb' 0 8))) ∧
  (∀ w : Word, w &&& 0xF000#16 = 0x4000#16 →
    decodeWord w = .instr (.sneImm (w.extractLsb' 8 4) (w.extractLsb' 0 8))) ∧
  ∀ (s : State) (x : RegIdx) (nn : Byte),
    (∃ t, exec (.seImm x nn) s = .next t ∧ SameBut [.pc] s t ∧
      (s.reg x = nn → t.pc = s.pc + 4#16) ∧ (s.reg x ≠ nn → t.pc = s.pc + 2#16)) ∧
    (∃ t, exec (.sneImm x nn) s = .next t ∧ SameBut [.pc] s t ∧
      (s.reg x ≠ nn → t.pc = s.pc + 4#16) ∧ (s.reg x = nn → t.pc = s.pc + 2#16))

/-- R120, R121: the skips on two registers, the aliases with any low nibble included. -/
def Obligations.SkipsOnRegisters : Prop :=
  (∀ w : Word, w &&& 0xF000#16 = 0x5000#16 →
    decodeWord w = .instr (.seReg (w.extractLsb' 8 4) (w.extractLsb' 4 4))) ∧
  (∀ w : Word, w &&& 0xF000#16 = 0x9000#16 →
    decodeWord w = .instr (.sneReg (w.extractLsb' 8 4) (w.extractLsb' 4 4))) ∧
  ∀ (s : State) (x y : RegIdx),
    (∃ t, exec (.seReg x y) s = .next t ∧ SameBut [.pc] s t ∧
      (s.reg x = s.reg y → t.pc = s.pc + 4#16) ∧ (s.reg x ≠ s.reg y → t.pc = s.pc + 2#16)) ∧
    (∃ t, exec (.sneReg x y) s = .next t ∧ SameBut [.pc] s t ∧
      (s.reg x ≠ s.reg y → t.pc = s.pc + 4#16) ∧ (s.reg x = s.reg y → t.pc = s.pc + 2#16))

/-- R122: `JP V0, nnn` assigns `PC` the plain sum of `V0` and the address, whatever the bits 11:8 are. -/
def Obligations.JpV0AssignsTheSum : Prop :=
  (∀ w : Word, w &&& 0xF000#16 = 0xB000#16 → decodeWord w = .instr (.jpV0 (w.extractLsb' 0 12))) ∧
  ∀ (s : State) (nnn : Addr), ∃ t, exec (.jpV0 nnn) s = .next t ∧
    t.pc.toNat = (s.reg 0x0#4).toNat + nnn.toNat ∧ SameBut [.pc] s t

/-! ## Register load and arithmetic-logic -/

/-- R135, R137: the two loads of a register; `VF` is no flag here. -/
def Obligations.LoadsOfARegister : Prop :=
  (∀ w : Word, w &&& 0xF000#16 = 0x6000#16 →
    decodeWord w = .instr (.ldImm (w.extractLsb' 8 4) (w.extractLsb' 0 8))) ∧
  (∀ w : Word, w &&& 0xF00F#16 = 0x8000#16 →
    decodeWord w = .instr (.ldReg (w.extractLsb' 8 4) (w.extractLsb' 4 4))) ∧
  ∀ (s : State) (x y : RegIdx) (nn : Byte),
    (∃ t, exec (.ldImm x nn) s = .next t ∧ t.reg x = nn ∧ RegsBut [x] s t ∧ t.pc = s.pc + 2#16 ∧
      SameBut [.regs, .pc] s t) ∧
    (∃ t, exec (.ldReg x y) s = .next t ∧ t.reg x = s.reg y ∧ RegsBut [x] s t ∧ t.pc = s.pc + 2#16 ∧
      SameBut [.regs, .pc] s t)

/-- R136: `ADD Vx, nn` wraps at 256 and has no flag effect. -/
def Obligations.AddImmediateWrapsWithoutFlag : Prop :=
  (∀ w : Word, w &&& 0xF000#16 = 0x7000#16 →
    decodeWord w = .instr (.addImm (w.extractLsb' 8 4) (w.extractLsb' 0 8))) ∧
  ∀ (s : State) (x : RegIdx) (nn : Byte), ∃ t, exec (.addImm x nn) s = .next t ∧
    (t.reg x).toNat = ((s.reg x).toNat + nn.toNat) % 256 ∧ RegsBut [x] s t ∧ t.pc = s.pc + 2#16 ∧
    SameBut [.regs, .pc] s t

/-- R138, R139, R140: the logic operations, bit by bit, leave `VF = 0` for every `x` and `y` (`x = 15` by spec
decision D2). -/
def Obligations.LogicOperationsClearVF : Prop :=
  (∀ w : Word, w &&& 0xF00F#16 = 0x8001#16 →
    decodeWord w = .instr (.orReg (w.extractLsb' 8 4) (w.extractLsb' 4 4))) ∧
  (∀ w : Word, w &&& 0xF00F#16 = 0x8002#16 →
    decodeWord w = .instr (.andReg (w.extractLsb' 8 4) (w.extractLsb' 4 4))) ∧
  (∀ w : Word, w &&& 0xF00F#16 = 0x8003#16 →
    decodeWord w = .instr (.xorReg (w.extractLsb' 8 4) (w.extractLsb' 4 4))) ∧
  ∀ (s : State) (x y : RegIdx),
    (∃ t, exec (.orReg x y) s = .next t ∧ (t.reg 0xF#4).toNat = 0 ∧
      (x ≠ 0xF#4 → ∀ k, k < 8 → (t.reg x).getLsbD k = ((s.reg x).getLsbD k || (s.reg y).getLsbD k)) ∧
      RegsBut [x, 0xF#4] s t ∧ t.pc = s.pc + 2#16 ∧ SameBut [.regs, .pc] s t) ∧
    (∃ t, exec (.andReg x y) s = .next t ∧ (t.reg 0xF#4).toNat = 0 ∧
      (x ≠ 0xF#4 → ∀ k, k < 8 → (t.reg x).getLsbD k = ((s.reg x).getLsbD k && (s.reg y).getLsbD k)) ∧
      RegsBut [x, 0xF#4] s t ∧ t.pc = s.pc + 2#16 ∧ SameBut [.regs, .pc] s t) ∧
    (∃ t, exec (.xorReg x y) s = .next t ∧ (t.reg 0xF#4).toNat = 0 ∧
      (x ≠ 0xF#4 → ∀ k, k < 8 → (t.reg x).getLsbD k = ((s.reg x).getLsbD k ^^ (s.reg y).getLsbD k)) ∧
      RegsBut [x, 0xF#4] s t ∧ t.pc = s.pc + 2#16 ∧ SameBut [.regs, .pc] s t)

/-- R141: `ADD Vx, Vy` wraps at 256; `VF` = 1 exactly when the true sum exceeds 255, written last (for `x = 15`
the flag survives, spec decision D2). -/
def Obligations.AddRegistersSetsCarry : Prop :=
  (∀ w : Word, w &&& 0xF00F#16 = 0x8004#16 →
    decodeWord w = .instr (.addReg (w.extractLsb' 8 4) (w.extractLsb' 4 4))) ∧
  ∀ (s : State) (x y : RegIdx), ∃ t, exec (.addReg x y) s = .next t ∧
    (t.reg 0xF#4).toNat = (if 255 < (s.reg x).toNat + (s.reg y).toNat then 1 else 0) ∧
    (x ≠ 0xF#4 → (t.reg x).toNat = ((s.reg x).toNat + (s.reg y).toNat) % 256) ∧
    RegsBut [x, 0xF#4] s t ∧ t.pc = s.pc + 2#16 ∧ SameBut [.regs, .pc] s t

/-- R142, R143: the two subtractions wrap at 256; `VF` = 1 exactly when there is no borrow, written last. -/
def Obligations.SubtractionsSetNoBorrow : Prop :=
  (∀ w : Word, w &&& 0xF00F#16 = 0x8005#16 →
    decodeWord w = .instr (.sub (w.extractLsb' 8 4) (w.extractLsb' 4 4))) ∧
  (∀ w : Word, w &&& 0xF00F#16 = 0x8007#16 →
    decodeWord w = .instr (.subn (w.extractLsb' 8 4) (w.extractLsb' 4 4))) ∧
  ∀ (s : State) (x y : RegIdx),
    (∃ t, exec (.sub x y) s = .next t ∧
      (t.reg 0xF#4).toNat = (if (s.reg y).toNat ≤ (s.reg x).toNat then 1 else 0) ∧
      (x ≠ 0xF#4 → (t.reg x).toNat = (256 + (s.reg x).toNat - (s.reg y).toNat) % 256) ∧
      RegsBut [x, 0xF#4] s t ∧ t.pc = s.pc + 2#16 ∧ SameBut [.regs, .pc] s t) ∧
    (∃ t, exec (.subn x y) s = .next t ∧
      (t.reg 0xF#4).toNat = (if (s.reg x).toNat ≤ (s.reg y).toNat then 1 else 0) ∧
      (x ≠ 0xF#4 → (t.reg x).toNat = (256 + (s.reg y).toNat - (s.reg x).toNat) % 256) ∧
      RegsBut [x, 0xF#4] s t ∧ t.pc = s.pc + 2#16 ∧ SameBut [.regs, .pc] s t)

/-- R144, R145: the shifts take `V[y]`, move it one place, and put the bit shifted out in `VF`, last. -/
def Obligations.ShiftsReadVyAndSetVF : Prop :=
  (∀ w : Word, w &&& 0xF00F#16 = 0x8006#16 →
    decodeWord w = .instr (.shr (w.extractLsb' 8 4) (w.extractLsb' 4 4))) ∧
  (∀ w : Word, w &&& 0xF00F#16 = 0x800E#16 →
    decodeWord w = .instr (.shl (w.extractLsb' 8 4) (w.extractLsb' 4 4))) ∧
  ∀ (s : State) (x y : RegIdx),
    (∃ t, exec (.shr x y) s = .next t ∧ (t.reg 0xF#4).toNat = (s.reg y).toNat % 2 ∧
      (x ≠ 0xF#4 → (t.reg x).toNat = (s.reg y).toNat / 2) ∧
      RegsBut [x, 0xF#4] s t ∧ t.pc = s.pc + 2#16 ∧ SameBut [.regs, .pc] s t) ∧
    (∃ t, exec (.shl x y) s = .next t ∧ (t.reg 0xF#4).toNat = (s.reg y).toNat / 128 ∧
      (x ≠ 0xF#4 → (t.reg x).toNat = 2 * (s.reg y).toNat % 256) ∧
      RegsBut [x, 0xF#4] s t ∧ t.pc = s.pc + 2#16 ∧ SameBut [.regs, .pc] s t)

/-- R147: `RND Vx, nn` loads the drawn byte masked with `nn`. The draw is the free value `Config.rand8 s.draws`
(log entry 1), of which nothing is known: the statement holds whatever it is, and the next draw has a fresh
index. -/
def Obligations.RndLoadsAMaskedDraw : Prop :=
  (∀ w : Word, w &&& 0xF000#16 = 0xC000#16 →
    decodeWord w = .instr (.rnd (w.extractLsb' 8 4) (w.extractLsb' 0 8))) ∧
  ∀ (s : State) (x : RegIdx) (nn : Byte), ∃ t, exec (.rnd x nn) s = .next t ∧
    (∀ k, k < 8 → (t.reg x).getLsbD k = ((Config.rand8 s.draws).getLsbD k && nn.getLsbD k)) ∧
    t.draws = s.draws + 1 ∧ RegsBut [x] s t ∧ t.pc = s.pc + 2#16 ∧ SameBut [.regs, .pc, .draws] s t

/-! ## Index register and memory -/

/-- R165, R166, R167: the three instructions that set `I`; none faults and none sets a flag. -/
def Obligations.IndexRegisterIsSet : Prop :=
  (∀ w : Word, w &&& 0xF000#16 = 0xA000#16 → decodeWord w = .instr (.ldI (w.extractLsb' 0 12))) ∧
  (∀ w : Word, w &&& 0xF0FF#16 = 0xF01E#16 → decodeWord w = .instr (.addI (w.extractLsb' 8 4))) ∧
  (∀ w : Word, w &&& 0xF0FF#16 = 0xF029#16 → decodeWord w = .instr (.ldF (w.extractLsb' 8 4))) ∧
  ∀ (s : State) (x : RegIdx) (nnn : Addr),
    (∃ t, exec (.ldI nnn) s = .next t ∧ t.i.toNat = nnn.toNat ∧ t.pc = s.pc + 2#16 ∧
      SameBut [.index, .pc] s t) ∧
    (∃ t, exec (.addI x) s = .next t ∧ t.i.toNat = (s.i.toNat + (s.reg x).toNat) % 65536 ∧
      t.pc = s.pc + 2#16 ∧ SameBut [.index, .pc] s t) ∧
    (∃ t, exec (.ldF x) s = .next t ∧ t.i.toNat = (s.reg x).toNat * 5 ∧ t.pc = s.pc + 2#16 ∧
      SameBut [.index, .pc] s t)

/-- R168: `LD B, Vx` stores the three decimal digits at `I`, `I + 1`, `I + 2` and nothing else; it takes
`MemBounds(I)` when the range leaves memory (spec decision D4). -/
def Obligations.BcdStoreWritesThreeDigits : Prop :=
  (∀ w : Word, w &&& 0xF0FF#16 = 0xF033#16 → decodeWord w = .instr (.ldB (w.extractLsb' 8 4))) ∧
  ∀ (s : State) (x : RegIdx),
    (s.i.toNat + 3 ≤ 4096 → ∃ t, exec (.ldB x) s = .next t ∧
      (t.byte s.i.toNat).toNat = (s.reg x).toNat / 100 ∧
      (t.byte (s.i.toNat + 1)).toNat = (s.reg x).toNat / 10 % 10 ∧
      (t.byte (s.i.toNat + 2)).toNat = (s.reg x).toNat % 10 ∧
      BytesBut s.i.toNat 3 s t ∧ t.pc = s.pc + 2#16 ∧ SameBut [.mem, .pc] s t) ∧
    (4096 < s.i.toNat + 3 → exec (.ldB x) s = .next (s.raise (.memBounds s.i)))

/-- R169: `LD [I], Vx` stores `V0..Vx` from `I` up and advances `I` by `x + 1`; it takes `MemBounds(I)` when the
range leaves memory, and then stores nothing. -/
def Obligations.BlockStoreWritesRegisters : Prop :=
  (∀ w : Word, w &&& 0xF0FF#16 = 0xF055#16 → decodeWord w = .instr (.storeRegs (w.extractLsb' 8 4))) ∧
  ∀ (s : State) (x : RegIdx),
    (s.i.toNat + x.toNat + 1 ≤ 4096 → ∃ t, exec (.storeRegs x) s = .next t ∧
      (∀ j : RegIdx, j.toNat ≤ x.toNat → t.byte (s.i.toNat + j.toNat) = s.reg j) ∧
      BytesBut s.i.toNat (x.toNat + 1) s t ∧ t.i.toNat = (s.i.toNat + x.toNat + 1) % 65536 ∧
      t.pc = s.pc + 2#16 ∧ SameBut [.mem, .index, .pc] s t) ∧
    (4096 < s.i.toNat + x.toNat + 1 → exec (.storeRegs x) s = .next (s.raise (.memBounds s.i)))

/-- R170: `LD Vx, [I]` loads `V0..Vx` from `I` up, leaves the registers above alone and advances `I` by `x + 1`;
it takes `MemBounds(I)` when the range leaves memory, and then loads nothing. -/
def Obligations.BlockLoadReadsRegisters : Prop :=
  (∀ w : Word, w &&& 0xF0FF#16 = 0xF065#16 → decodeWord w = .instr (.loadRegs (w.extractLsb' 8 4))) ∧
  ∀ (s : State) (x : RegIdx),
    (s.i.toNat + x.toNat + 1 ≤ 4096 → ∃ t, exec (.loadRegs x) s = .next t ∧
      (∀ j : RegIdx, j.toNat ≤ x.toNat → t.reg j = s.byte (s.i.toNat + j.toNat)) ∧
      (∀ j : RegIdx, x.toNat < j.toNat → t.reg j = s.reg j) ∧
      t.i.toNat = (s.i.toNat + x.toNat + 1) % 65536 ∧
      t.pc = s.pc + 2#16 ∧ SameBut [.regs, .index, .pc] s t) ∧
    (4096 < s.i.toNat + x.toNat + 1 → exec (.loadRegs x) s = .next (s.raise (.memBounds s.i)))

/-! ## Framebuffer and display -/

/-- R188: `CLS` turns every pixel off and writes neither `VF` nor `DRAW_FLAG` (spec decision D25). -/
def Obligations.ClsTurnsEveryPixelOff : Prop :=
  (∀ w : Word, w &&& 0xF00F#16 = 0x0000#16 → decodeWord w = .instr .cls) ∧
  ∀ s : State, ∃ t, exec .cls s = .next t ∧ (∀ px py, pixel t.fb px py = false) ∧ t.pc = s.pc + 2#16 ∧
    SameBut [.fb, .pc] s t

/-- R189: `DRW Vx, Vy, n` flips exactly the pixels the sprite covers, under both settings of `CLIP_ON_DRAW`; `VF`
tells whether one of them was lit; it takes `MemBounds(I)` when `n >= 1` and the sprite leaves memory (spec
decisions D4, D13, D22). -/
def Obligations.DrwFlipsTheCoveredPixels : Prop :=
  (∀ w : Word, w &&& 0xF000#16 = 0xD000#16 →
    decodeWord w = .instr (.drw (w.extractLsb' 8 4) (w.extractLsb' 4 4) (w.extractLsb' 0 4))) ∧
  ∀ (s : State) (x y : RegIdx) (n : Nibble),
    (n.toNat = 0 ∨ s.i.toNat + n.toNat ≤ 4096 → ∃ t, exec (.drw x y n) s = .next t ∧
      (∀ px py, s.Covers (s.reg x) (s.reg y) n.toNat px py → pixel t.fb px py = !pixel s.fb px py) ∧
      (∀ px py, ¬ s.Covers (s.reg x) (s.reg y) n.toNat px py → pixel t.fb px py = pixel s.fb px py) ∧
      ((∃ px py, s.Covers (s.reg x) (s.reg y) n.toNat px py ∧ pixel s.fb px py = true) →
        t.reg 0xF#4 = 1#8) ∧
      ((¬ ∃ px py, s.Covers (s.reg x) (s.reg y) n.toNat px py ∧ pixel s.fb px py = true) →
        t.reg 0xF#4 = 0#8) ∧
      t.drawFlag = true ∧ RegsBut [0xF#4] s t ∧ t.pc = s.pc + 2#16 ∧
      SameBut [.regs, .fb, .drawFlag, .pc] s t) ∧
    (0 < n.toNat ∧ 4096 < s.i.toNat + n.toNat → exec (.drw x y n) s = .next (s.raise (.memBounds s.i)))

/-- R190 (a): the same `DRW` executed twice restores the framebuffer, and the second sets `VF` exactly when the
first turned a pixel on, for every form of the instruction whose position registers the first draw left alone. -/
def Obligations.DrawingTwiceRestoresTheScreen : Prop :=
  ∀ (s t u : State) (x y : RegIdx) (n : Nibble),
    n.toNat = 0 ∨ s.i.toNat + n.toNat ≤ 4096 → t.reg x = s.reg x → t.reg y = s.reg y →
    exec (.drw x y n) s = .next t → exec (.drw x y n) t = .next u →
    u.fb = s.fb ∧
    (u.reg 0xF#4 = 1#8 ↔ ∃ px py, pixel s.fb px py = false ∧ pixel t.fb px py = true)

/-! ## Keypad and timers -/

/-- R205, R206: the skips on a key read the key that `Vx` numbers, and take `KeyIndex(vx)` when `Vx > 15` (spec
decision D6). -/
def Obligations.KeySkipsReadTheKeypad : Prop :=
  (∀ w : Word, w &&& 0xF00F#16 = 0xE00E#16 → decodeWord w = .instr (.skp (w.extractLsb' 8 4))) ∧
  (∀ w : Word, w &&& 0xF00F#16 = 0xE001#16 → decodeWord w = .instr (.sknp (w.extractLsb' 8 4))) ∧
  ∀ (s : State) (x : RegIdx),
    (∀ h : (s.reg x).toNat < 16,
      (∃ t, exec (.skp x) s = .next t ∧ SameBut [.pc] s t ∧
        (s.keys[(s.reg x).toNat] = true → t.pc = s.pc + 4#16) ∧
        (s.keys[(s.reg x).toNat] = false → t.pc = s.pc + 2#16)) ∧
      (∃ t, exec (.sknp x) s = .next t ∧ SameBut [.pc] s t ∧
        (s.keys[(s.reg x).toNat] = false → t.pc = s.pc + 4#16) ∧
        (s.keys[(s.reg x).toNat] = true → t.pc = s.pc + 2#16))) ∧
    (15 < (s.reg x).toNat →
      exec (.skp x) s = .next (s.raise (.keyIndex (s.reg x))) ∧
      exec (.sknp x) s = .next (s.raise (.keyIndex (s.reg x))))

/-- R207, R209, R210: the timer loads. -/
def Obligations.TimerLoads : Prop :=
  (∀ w : Word, w &&& 0xF0FF#16 = 0xF007#16 → decodeWord w = .instr (.ldVxDT (w.extractLsb' 8 4))) ∧
  (∀ w : Word, w &&& 0xF0FF#16 = 0xF015#16 → decodeWord w = .instr (.ldDTVx (w.extractLsb' 8 4))) ∧
  (∀ w : Word, w &&& 0xF0FF#16 = 0xF018#16 → decodeWord w = .instr (.ldSTVx (w.extractLsb' 8 4))) ∧
  ∀ (s : State) (x : RegIdx),
    (∃ t, exec (.ldVxDT x) s = .next t ∧ t.reg x = s.dt ∧ RegsBut [x] s t ∧ t.pc = s.pc + 2#16 ∧
      SameBut [.regs, .pc] s t) ∧
    (∃ t, exec (.ldDTVx x) s = .next t ∧ t.dt = s.reg x ∧ t.pc = s.pc + 2#16 ∧ SameBut [.dt, .pc] s t) ∧
    (∃ t, exec (.ldSTVx x) s = .next t ∧ t.st = s.reg x ∧ t.pc = s.pc + 2#16 ∧ SameBut [.st, .pc] s t)

/-- R208: the four cases of one execution of `LD Vx, K`. -/
def Obligations.WaitForKeyTransitions : Prop :=
  (∀ w : Word, w &&& 0xF0FF#16 = 0xF00A#16 → decodeWord w = .instr (.ldVxK (w.extractLsb' 8 4))) ∧
  ∀ (s : State) (x : RegIdx),
    (s.wait = .idle → (∀ k : Key, s.key k = false) → exec (.ldVxK x) s = .next s) ∧
    (∀ k : Key, s.wait = .idle → s.key k = true → (∀ j : Key, j.val < k.val → s.key j = false) →
      ∃ t, exec (.ldVxK x) s = .next t ∧ t.wait = .latched k ∧ SameBut [.wait] s t) ∧
    (∀ k : Key, s.wait = .latched k → s.key k = true → exec (.ldVxK x) s = .next s) ∧
    (∀ k : Key, s.wait = .latched k → s.key k = false →
      ∃ t, exec (.ldVxK x) s = .next t ∧ (t.reg x).toNat = k.val ∧ t.wait = .idle ∧ RegsBut [x] s t ∧
        t.pc = s.pc + 2#16 ∧ SameBut [.regs, .wait, .pc] s t)

/-- R211: with no key down any number of `CYCLE`s leaves the state alone; after a press of `k` (all keys up to `k`
being up before it), one `CYCLE` or more, and its release, one `CYCLE` completes the instruction, whatever the
number of `CYCLE`s in between. -/
def Obligations.WaitForKeyCompletesOnRelease : Prop :=
  ∀ (s : State) (x : RegIdx), s.Executes (.ldVxK x) → s.wait = .idle →
    ((∀ k : Key, s.key k = false) → ∀ n, applyEvents (List.replicate n .cycle) s = .next s) ∧
    (∀ k : Key, (∀ j : Key, j.val ≤ k.val → s.key j = false) → ∀ m,
      ∃ t, applyEvents (.keyPress k :: List.replicate (m + 1) .cycle ++ [.keyRelease k, .cycle]) s = .next t ∧
        (t.reg x).toNat = k.val ∧ t.wait = .idle ∧ t.pc = s.pc + 2#16 ∧ RegsBut [x] s t ∧
        SameBut [.regs, .pc] s t)

/-! ## The CYCLE event and the step -/

/-- R100, R103, R105: when the host's next event is a `CYCLE` that reaches the fetch and the two bytes at `PC`
decode to a well-formed instruction, the step is `exec` of it on the state with that event taken off the host's
script; with an empty script that is the state itself. -/
def Obligations.StepRunsTheDecodedInstruction : Prop :=
  ∀ (s : State) (i : Instr), s.nextEvent = .cycle → s.fault = none →
    ¬ (s.displayWait = true ∧ s.drawFlag = true) → s.pc.toNat ≤ 0xFFE →
    decode [s.byte s.pc.toNat, s.byte (s.pc.toNat + 1)] = .instr i [] → WellFormed i = true →
    step s = exec i (s.setScript s.script.tail) ∧ (s.script = [] → step s = exec i s)

/-- R104: an unknown opcode changes no state at all, `PC` included; the optional diagnostic carries the word. -/
def Obligations.UnknownOpcodeChangesNothing : Prop :=
  ∀ (s : State) (w : Word), s.fault = none → ¬ (s.displayWait = true ∧ s.drawFlag = true) →
    s.fetch = some w → decodeWord w = .unknown w →
    cycle s = .next s ∧ cycleDiag s = some w ∧ ∀ n, applyEvents (List.replicate n .cycle) s = .next s

/-- R101, R233: on a stopped core every event but `RESET` changes nothing, no diagnostic is emitted, `SNAPSHOT`
still returns the framebuffer, and `RESET` clears `FAULT` (spec decision D11). -/
def Obligations.StoppedCoreIsFrozen : Prop :=
  ∀ s : State, s.fault ≠ none →
    (∀ e : Event, e ≠ .reset → applyEvent e s = .next s) ∧ cycleDiag s = none ∧ snapshot s = s.fb ∧
    ∃ t, applyEvent .reset s = .next t ∧ t.fault = none

/-- R102: the closed display-wait gate makes `CYCLE` change nothing, however many there are; with `DISPLAY_WAIT`
false `CYCLE` goes on to the fetch whatever `DRAW_FLAG` is, and does what the word fetched asks for. -/
def Obligations.DisplayWaitGatesCycle : Prop :=
  ∀ s : State, s.fault = none →
    (s.displayWait = true → s.drawFlag = true → cycleDiag s = none ∧
      ∀ n, applyEvents (List.replicate n .cycle) s = .next s) ∧
    (s.displayWait = false → ∀ w i, s.fetch = some w → decodeWord w = .instr i → cycle s = exec i s) ∧
    (s.displayWait = false → ∀ w, s.fetch = some w → decodeWord w = .unknown w →
      cycle s = .next s ∧ cycleDiag s = some w) ∧
    (s.displayWait = false → s.fetch = none → cycle s = .next (s.raise (.fetchBounds s.pc)))

/-- R191, R270: once the gate is closed, no event but `END_FRAME` and `RESET` opens it, and no instruction
executes meanwhile: only the host's own events show. -/
def Obligations.ClosedGateHoldsUntilEndFrame : Prop :=
  ∀ (es : List Event) (s t : State), s.displayWait = true → s.drawFlag = true →
    (∀ e ∈ es, e ≠ .endFrame ∧ e ≠ .reset) → applyEvents es s = .next t →
    t.drawFlag = true ∧ SameBut [.dt, .st, .keys, .mem, .fault] s t

/-- R57, R103: a `CYCLE` that reaches the fetch with `PC > 0xFFE` takes `FetchBounds(PC)`; with `PC <= 0xFFE` the
fetch is the big-endian word at `PC`, odd or even. -/
def Obligations.FetchIsBigEndianAndBounded : Prop :=
  ∀ s : State,
    (s.fault = none → ¬ (s.displayWait = true ∧ s.drawFlag = true) → 0xFFE < s.pc.toNat →
      cycle s = .next (s.raise (.fetchBounds s.pc))) ∧
    (s.pc.toNat ≤ 0xFFE → ∃ w, s.fetch = some w ∧
      w.toNat = (s.byte s.pc.toNat).toNat * 256 + (s.byte (s.pc.toNat + 1)).toNat)

/-- R231: an event that raises a fault changes `FAULT` and nothing else. -/
def Obligations.FaultEntryIsPrecise : Prop :=
  ∀ (e : Event) (s t : State), e ≠ .reset → applyEvent e s = .next t → t.fault ≠ s.fault →
    s.fault = none ∧ ∃ f, t = s.raise f

/-- R230: the six faults, what raises each, its code and its information word, and that there is no other. -/
def Obligations.FaultsAreThoseOfTheTable : Prop :=
  ∀ (e : Event) (s t : State) (f : Fault), s.fault = none → applyEvent e s = .next t → t.fault = some f →
    (f.code = 1 ∧ e = .cycle ∧ (∃ nnn, s.Executes (.call nnn)) ∧ s.sp.val = 16 ∧ f.info = s.pc.toNat) ∨
    (f.code = 2 ∧ e = .cycle ∧ s.Executes .ret ∧ s.sp.val = 0 ∧ f.info = s.pc.toNat) ∨
    (f.code = 3 ∧ e = .cycle ∧ f.info = s.i.toNat ∧
      ((∃ x y n, s.Executes (.drw x y n) ∧ 1 ≤ n.toNat ∧ 4096 < s.i.toNat + n.toNat) ∨
       (∃ x, s.Executes (.ldB x) ∧ 4096 < s.i.toNat + 3) ∨
       (∃ x, (s.Executes (.storeRegs x) ∨ s.Executes (.loadRegs x)) ∧ 4096 < s.i.toNat + x.toNat + 1))) ∨
    (f.code = 4 ∧ e = .cycle ∧ 0xFFE < s.pc.toNat ∧ f.info = s.pc.toNat) ∨
    (f.code = 5 ∧ e = .cycle ∧
      ∃ x, (s.Executes (.skp x) ∨ s.Executes (.sknp x)) ∧ 15 < (s.reg x).toNat ∧ f.info = (s.reg x).toNat) ∨
    (f.code = 6 ∧ ∃ bytes, e = .loadRom bytes ∧ 3584 < bytes.length ∧ f.info = bytes.length)

/-- No step stops the model: every instruction and every event answers a next state (the spec's faults are states,
log entry 4). -/
def Obligations.EveryStepAnswersANextState : Prop :=
  (∀ (i : Instr) (s : State), ∃ t, exec i s = .next t) ∧
  (∀ (e : Event) (s : State), ∃ t, applyEvent e s = .next t) ∧ ∀ s : State, ∃ t, step s = .next t

/-- R37: an instruction that takes no fault writes only the parts the access table gives it. -/
def Obligations.InstructionsWriteOnlyTheirParts : Prop :=
  ∀ (i : Instr) (s t : State), exec i s = .next t → t.fault = s.fault → SameBut (writesOf i) s t

/-- R26: no instruction reads `ST`: with another value in it, every instruction but `LD ST, Vx` does the same and
leaves that value alone. -/
def Obligations.NoInstructionReadsTheSoundTimer : Prop :=
  ∀ (i : Instr) (s t : State) (b : Byte), (∀ x, i ≠ .ldSTVx x) → exec i s = .next t →
    exec i (s.setSt b) = .next (t.setSt b)

/-- R63: bytes stored by `LD [I], Vx` are what the next fetch from their address reads. -/
def Obligations.StoresAreFetchedAtOnce : Prop :=
  ∀ (s t : State) (x j : RegIdx), s.i.toNat + x.toNat + 1 ≤ 4096 → j.toNat < x.toNat →
    exec (.storeRegs x) s = .next t →
    (t.setPc (s.i + j.setWidth 16)).fetch = some (s.reg j ++ s.reg (j + 1#4))

/-- R264: a core that has settled stays as it is under any number of `CYCLE`s. -/
def Obligations.SettledCoreStaysSettled : Prop :=
  ∀ (s : State) (a : Addr) (n : Nat), s.SettledAt a → applyEvents (List.replicate n .cycle) s = .next s

/-! ## Host events -/

/-- R241: `TIMER_TICK` lowers both timers by one, clamped at 0. -/
def Obligations.TimerTickDecrementsClamped : Prop :=
  ∀ s : State, (s.fault = none → ∃ t, applyEvent .timerTick s = .next t ∧
      t.dt.toNat = s.dt.toNat - 1 ∧ t.st.toNat = s.st.toNat - 1 ∧ SameBut [.dt, .st] s t) ∧
    (s.fault ≠ none → applyEvent .timerTick s = .next s)

/-- R248: `n` ticks lower a timer by `n`, or to 0, where it stays. -/
def Obligations.ManyTicksReachZeroAndStay : Prop :=
  ∀ (n : Nat) (s : State), s.fault = none → ∃ t, applyEvents (List.replicate n .timerTick) s = .next t ∧
    t.dt.toNat = s.dt.toNat - n ∧ t.st.toNat = s.st.toNat - n ∧ SameBut [.dt, .st] s t

/-- R242, R243, R244, R245: the key events write one key, `END_FRAME` clears `DRAW_FLAG`, `SNAPSHOT` returns `FB`;
a stopped core takes none of the three writes. -/
def Obligations.KeyAndFrameEvents : Prop :=
  ∀ s : State,
    (s.fault = none →
      (∀ k : Key, ∃ t, applyEvent (.keyPress k) s = .next t ∧ t.key k = true ∧
        (∀ j, j ≠ k → t.key j = s.key j) ∧ SameBut [.keys] s t) ∧
      (∀ k : Key, ∃ t, applyEvent (.keyRelease k) s = .next t ∧ t.key k = false ∧
        (∀ j, j ≠ k → t.key j = s.key j) ∧ SameBut [.keys] s t) ∧
      (∃ t, applyEvent .endFrame s = .next t ∧ t.drawFlag = false ∧ SameBut [.drawFlag] s t)) ∧
    (s.fault ≠ none → applyEvent .endFrame s = .next s ∧
      ∀ k : Key, applyEvent (.keyPress k) s = .next s ∧ applyEvent (.keyRelease k) s = .next s) ∧
    applyEvent .snapshot s = .next s ∧ snapshot s = s.fb

/-- R246: the host's input events commute, those of one key excepted, and of two events for one key the last
wins. -/
def Obligations.HostInputsCommute : Prop :=
  ∀ (s : State) (k l : Key),
    (∀ e ∈ [Event.keyPress k, .keyRelease k], ∀ d ∈ [Event.timerTick, .endFrame],
      applyEvents [e, d] s = applyEvents [d, e] s) ∧
    applyEvents [.timerTick, .endFrame] s = applyEvents [.endFrame, .timerTick] s ∧
    (k ≠ l → ∀ e ∈ [Event.keyPress k, .keyRelease k], ∀ d ∈ [Event.keyPress l, .keyRelease l],
      applyEvents [e, d] s = applyEvents [d, e] s) ∧
    (∀ e ∈ [Event.keyPress k, .keyRelease k], ∀ d ∈ [Event.keyPress k, .keyRelease k],
      applyEvents [e, d] s = applyEvent d s)

/-- R261: `LOAD_FONT` writes the 80 font bytes at 0x000 and nothing else. -/
def Obligations.LoadFontRestoresTheFont : Prop :=
  ∀ s : State, (s.fault = none → ∃ t, applyEvent .loadFont s = .next t ∧
      (∀ a, a < 80 → t.byte a = font.getD a 0x00#8) ∧ BytesBut 0 80 s t ∧ SameBut [.mem] s t) ∧
    (s.fault ≠ none → applyEvent .loadFont s = .next s)

/-- R262: `LOAD_ROM` copies the bytes verbatim to 0x200, or takes `RomTooLarge(len)` before any byte is written
(spec decision D19). -/
def Obligations.LoadRomCopiesOrFaults : Prop :=
  ∀ (s : State) (bytes : List Byte),
    (s.fault = none → bytes.length ≤ 3584 → ∃ t, applyEvent (.loadRom bytes) s = .next t ∧
      (∀ j, ∀ h : j < bytes.length, t.byte (0x200 + j) = bytes[j]) ∧
      BytesBut 0x200 bytes.length s t ∧ SameBut [.mem] s t) ∧
    (s.fault = none → 3584 < bytes.length →
      applyEvent (.loadRom bytes) s = .next (s.raise (.romTooLarge bytes.length))) ∧
    (s.fault ≠ none → applyEvent (.loadRom bytes) s = .next s)

/-- R260, R36: `RESET` is valid in every state, leaves every piece of state at its reset value (those but `PC` and
the font by spec decision D7), keeps the quirk flags, and is the only event that clears `FAULT`. -/
def Obligations.ResetGivesTheResetValues : Prop :=
  ∀ s : State,
    (∃ t, applyEvent .reset s = .next t ∧ t.HasResetValues ∧
      t.displayWait = s.displayWait ∧ t.clipOnDraw = s.clipOnDraw) ∧
    ∀ e t, s.fault ≠ none → applyEvent e s = .next t → t.fault = none → e = .reset

/-- R36: the model's state after reset holds the reset values, the quirk flags being the model's parameters. -/
def Obligations.ResetStateHasTheResetValues : Prop :=
  State.reset.HasResetValues ∧ State.reset.displayWait = Config.displayWait ∧
    State.reset.clipOnDraw = Config.clipOnDraw

/-- R29: no instruction and no event writes the quirk flags. -/
def Obligations.QuirkFlagsNeverChange : Prop :=
  ∀ s t : State, step s = .next t → t.displayWait = s.displayWait ∧ t.clipOnDraw = s.clipOnDraw

/-! ## Memory -/

/-- R10, R58: a block just written reads back; both accesses answer exactly when the range lies in memory, an
empty one always. -/
def Obligations.MemoryBlocksReadBack : Prop :=
  ∀ (m : List Host.Cell) (a : Nat) (bs : List Byte),
    ((bs.length = 0 ∨ a + bs.length ≤ 4096) →
      ∃ m', memWrite m a bs = some m' ∧ memRead m' a bs.length = some bs ∧
        ∀ c, c < a ∨ a + bs.length ≤ c → memByte m' c = memByte m c) ∧
    (0 < bs.length ∧ 4096 < a + bs.length → memWrite m a bs = none ∧ memRead m a bs.length = none)

/-- The canonical form of memory is one: two memories in it that read the same everywhere are the same list. -/
def Obligations.CanonicalMemoriesAreUnique : Prop :=
  ∀ m n : List Host.Cell, memWf m = true → memWf n = true → (∀ a, memByte m a = memByte n a) → m = n

/-! ## Decoding and encoding -/

/-- The decoder gives back every well-formed instruction from its encoded bytes, with whatever follows left over:
no bit of an operand is dropped. -/
def Obligations.DecodeInvertsEncode : Prop :=
  ∀ (i : Instr) (rest : List Byte), WellFormed i = true → decode (encodeBytes i ++ rest) = .instr i rest

/-- Words written out from the table of R74, one or more a family, decode to the instruction they stand for; the
first four are the source's own (R75). -/
def Obligations.SampleWordsDecode : Prop :=
  decode [0x60#8, 0x05#8] = .instr (.ldImm 0x0#4 0x05#8) [] ∧
  decode [0x61#8, 0x03#8] = .instr (.ldImm 0x1#4 0x03#8) [] ∧
  decode [0x80#8, 0x14#8] = .instr (.addReg 0x0#4 0x1#4) [] ∧
  decode [0x00#8, 0xE0#8] = .instr .cls [] ∧
  decode [0x2A#8, 0xBC#8] = .instr (.call 0xABC#12) [] ∧
  decode [0xBA#8, 0xBC#8] = .instr (.jpV0 0xABC#12) [] ∧
  decode [0xDA#8, 0xB5#8] = .instr (.drw 0xA#4 0xB#4 0x5#4) [] ∧
  decode [0xEA#8, 0xA1#8] = .instr (.sknp 0xA#4) [] ∧
  decode [0xFA#8, 0x65#8] = .instr (.loadRegs 0xA#4) [] ∧
  decode [0x81#8, 0x28#8] = .unknownOpcode 0x8128#16 []

/-- R77: the unknown words, by their nibbles. -/
def Obligations.UnknownWordsAreThoseOfTheRule : Prop :=
  ∀ w : Word, decodeWord w = .unknown w ↔
    (w.extractLsb' 12 4 = 0x0#4 ∧ w.extractLsb' 0 4 ∉ [0x0#4, 0xE#4]) ∨
    (w.extractLsb' 12 4 = 0x8#4 ∧ w.extractLsb' 0 4 ∈ [0x8#4, 0x9#4, 0xA#4, 0xB#4, 0xC#4, 0xD#4, 0xF#4]) ∨
    (w.extractLsb' 12 4 = 0xE#4 ∧ w.extractLsb' 0 4 ∉ [0x1#4, 0xE#4]) ∨
    (w.extractLsb' 12 4 = 0xF#4 ∧
      w.extractLsb' 0 8 ∉ [0x07#8, 0x0A#8, 0x15#8, 0x18#8, 0x1E#8, 0x29#8, 0x33#8, 0x55#8, 0x65#8])

/-- R73, R83: a word that decodes to an instruction carries its row's selecting bits, and no word carries the
selecting bits of two rows. -/
def Obligations.EachWordSelectsOneRow : Prop :=
  (∀ (w : Word) (i : Instr), decodeWord w = .instr i → w &&& selectMask i = selectMatch i) ∧
  ∀ (w : Word) (i j : Instr), w &&& selectMask i = selectMatch i → w &&& selectMask j = selectMatch j →
    selectMask i = selectMask j ∧ selectMatch i = selectMatch j

/-- The host's placement: from every state, the step after `withFetchWord` runs the encoded instruction, and
`withFetchWord` changes only what the fetch needs; where the next step would fetch anyway, only memory, and there
only the two bytes at `PC`. -/
def Obligations.PlacedWordIsTheNextToRun : Prop :=
  ∀ (s p : State) (i : Instr), p = s.withFetchWord 16 (encode i).toNat →
    step p = exec i (p.setScript p.script.tail) ∧
    SameBut [.pc, .mem, .fault, .drawFlag, .script] s p ∧ BytesBut p.pc.toNat 2 s p ∧
    (s.nextEvent = .cycle → s.fault = none → s.gateClosed = false → s.pc.toNat ≤ 0xFFE → SameBut [.mem] s p)

/-! ## Invariants -/

/-- Every step from every state keeps: memory in canonical form, `PC <= 0x10FE`, stack entries at most 0x1000
(R38). -/
def Obligations.EveryStepKeepsTheInvariant : Prop :=
  ∀ s t : State, s.Inv → step s = .next t → t.Inv

/-- Every step but a load of the font or of a ROM keeps: `WAIT` is `Idle` unless the instruction at `PC` is a
`LD Vx, K` (R31). -/
def Obligations.WaitingMeansWaitForKeyAtPc : Prop :=
  ∀ s t : State, s.WaitInv → s.nextEvent.isLoad = false → step s = .next t → t.WaitInv

/-- Both invariants hold at reset. -/
def Obligations.InvariantsHoldAtReset : Prop := State.reset.Inv ∧ State.reset.WaitInv
end

