-- ==== Sys2Proof/Laws/State.lean ====
section
/-! SUPPORT. One lemma per field per update of the state, true by rfl: what each named update writes and that
it leaves every other field alone. The fields an update changes inside (`v`, `keys`) have their laws in
Laws/Ops.lean, through `State.reg` and `State.key`. -/

namespace Sys2Proof.Machine

variable (s : State)

/-! ### setReg -/

@[simp] theorem State.setReg_i (x : RegIdx) (b : Byte) : (s.setReg x b).i = s.i := rfl
@[simp] theorem State.setReg_pc (x : RegIdx) (b : Byte) : (s.setReg x b).pc = s.pc := rfl
@[simp] theorem State.setReg_stack (x : RegIdx) (b : Byte) : (s.setReg x b).stack = s.stack := rfl
@[simp] theorem State.setReg_sp (x : RegIdx) (b : Byte) : (s.setReg x b).sp = s.sp := rfl
@[simp] theorem State.setReg_dt (x : RegIdx) (b : Byte) : (s.setReg x b).dt = s.dt := rfl
@[simp] theorem State.setReg_st (x : RegIdx) (b : Byte) : (s.setReg x b).st = s.st := rfl
@[simp] theorem State.setReg_keys (x : RegIdx) (b : Byte) : (s.setReg x b).keys = s.keys := rfl
@[simp] theorem State.setReg_fb (x : RegIdx) (b : Byte) : (s.setReg x b).fb = s.fb := rfl
@[simp] theorem State.setReg_drawFlag (x : RegIdx) (b : Byte) : (s.setReg x b).drawFlag = s.drawFlag := rfl
@[simp] theorem State.setReg_wait (x : RegIdx) (b : Byte) : (s.setReg x b).wait = s.wait := rfl
@[simp] theorem State.setReg_fault (x : RegIdx) (b : Byte) : (s.setReg x b).fault = s.fault := rfl
@[simp] theorem State.setReg_mem (x : RegIdx) (b : Byte) : (s.setReg x b).mem = s.mem := rfl
@[simp] theorem State.setReg_displayWait (x : RegIdx) (b : Byte) : (s.setReg x b).displayWait = s.displayWait := rfl
@[simp] theorem State.setReg_clipOnDraw (x : RegIdx) (b : Byte) : (s.setReg x b).clipOnDraw = s.clipOnDraw := rfl
@[simp] theorem State.setReg_draws (x : RegIdx) (b : Byte) : (s.setReg x b).draws = s.draws := rfl
@[simp] theorem State.setReg_script (x : RegIdx) (b : Byte) : (s.setReg x b).script = s.script := rfl

/-! ### loadRegList -/

@[simp] theorem State.loadRegList_i (bytes : List Byte) : (s.loadRegList bytes).i = s.i := rfl
@[simp] theorem State.loadRegList_pc (bytes : List Byte) : (s.loadRegList bytes).pc = s.pc := rfl
@[simp] theorem State.loadRegList_stack (bytes : List Byte) : (s.loadRegList bytes).stack = s.stack := rfl
@[simp] theorem State.loadRegList_sp (bytes : List Byte) : (s.loadRegList bytes).sp = s.sp := rfl
@[simp] theorem State.loadRegList_dt (bytes : List Byte) : (s.loadRegList bytes).dt = s.dt := rfl
@[simp] theorem State.loadRegList_st (bytes : List Byte) : (s.loadRegList bytes).st = s.st := rfl
@[simp] theorem State.loadRegList_keys (bytes : List Byte) : (s.loadRegList bytes).keys = s.keys := rfl
@[simp] theorem State.loadRegList_fb (bytes : List Byte) : (s.loadRegList bytes).fb = s.fb := rfl
@[simp] theorem State.loadRegList_drawFlag (bytes : List Byte) : (s.loadRegList bytes).drawFlag = s.drawFlag := rfl
@[simp] theorem State.loadRegList_wait (bytes : List Byte) : (s.loadRegList bytes).wait = s.wait := rfl
@[simp] theorem State.loadRegList_fault (bytes : List Byte) : (s.loadRegList bytes).fault = s.fault := rfl
@[simp] theorem State.loadRegList_mem (bytes : List Byte) : (s.loadRegList bytes).mem = s.mem := rfl
@[simp] theorem State.loadRegList_displayWait (bytes : List Byte) : (s.loadRegList bytes).displayWait = s.displayWait := rfl
@[simp] theorem State.loadRegList_clipOnDraw (bytes : List Byte) : (s.loadRegList bytes).clipOnDraw = s.clipOnDraw := rfl
@[simp] theorem State.loadRegList_draws (bytes : List Byte) : (s.loadRegList bytes).draws = s.draws := rfl
@[simp] theorem State.loadRegList_script (bytes : List Byte) : (s.loadRegList bytes).script = s.script := rfl

/-! ### setI -/

@[simp] theorem State.setI_v (w : Word) : (s.setI w).v = s.v := rfl
@[simp] theorem State.setI_i (w : Word) : (s.setI w).i = w := rfl
@[simp] theorem State.setI_pc (w : Word) : (s.setI w).pc = s.pc := rfl
@[simp] theorem State.setI_stack (w : Word) : (s.setI w).stack = s.stack := rfl
@[simp] theorem State.setI_sp (w : Word) : (s.setI w).sp = s.sp := rfl
@[simp] theorem State.setI_dt (w : Word) : (s.setI w).dt = s.dt := rfl
@[simp] theorem State.setI_st (w : Word) : (s.setI w).st = s.st := rfl
@[simp] theorem State.setI_keys (w : Word) : (s.setI w).keys = s.keys := rfl
@[simp] theorem State.setI_fb (w : Word) : (s.setI w).fb = s.fb := rfl
@[simp] theorem State.setI_drawFlag (w : Word) : (s.setI w).drawFlag = s.drawFlag := rfl
@[simp] theorem State.setI_wait (w : Word) : (s.setI w).wait = s.wait := rfl
@[simp] theorem State.setI_fault (w : Word) : (s.setI w).fault = s.fault := rfl
@[simp] theorem State.setI_mem (w : Word) : (s.setI w).mem = s.mem := rfl
@[simp] theorem State.setI_displayWait (w : Word) : (s.setI w).displayWait = s.displayWait := rfl
@[simp] theorem State.setI_clipOnDraw (w : Word) : (s.setI w).clipOnDraw = s.clipOnDraw := rfl
@[simp] theorem State.setI_draws (w : Word) : (s.setI w).draws = s.draws := rfl
@[simp] theorem State.setI_script (w : Word) : (s.setI w).script = s.script := rfl

/-! ### setPc -/

@[simp] theorem State.setPc_v (w : Word) : (s.setPc w).v = s.v := rfl
@[simp] theorem State.setPc_i (w : Word) : (s.setPc w).i = s.i := rfl
@[simp] theorem State.setPc_pc (w : Word) : (s.setPc w).pc = w := rfl
@[simp] theorem State.setPc_stack (w : Word) : (s.setPc w).stack = s.stack := rfl
@[simp] theorem State.setPc_sp (w : Word) : (s.setPc w).sp = s.sp := rfl
@[simp] theorem State.setPc_dt (w : Word) : (s.setPc w).dt = s.dt := rfl
@[simp] theorem State.setPc_st (w : Word) : (s.setPc w).st = s.st := rfl
@[simp] theorem State.setPc_keys (w : Word) : (s.setPc w).keys = s.keys := rfl
@[simp] theorem State.setPc_fb (w : Word) : (s.setPc w).fb = s.fb := rfl
@[simp] theorem State.setPc_drawFlag (w : Word) : (s.setPc w).drawFlag = s.drawFlag := rfl
@[simp] theorem State.setPc_wait (w : Word) : (s.setPc w).wait = s.wait := rfl
@[simp] theorem State.setPc_fault (w : Word) : (s.setPc w).fault = s.fault := rfl
@[simp] theorem State.setPc_mem (w : Word) : (s.setPc w).mem = s.mem := rfl
@[simp] theorem State.setPc_displayWait (w : Word) : (s.setPc w).displayWait = s.displayWait := rfl
@[simp] theorem State.setPc_clipOnDraw (w : Word) : (s.setPc w).clipOnDraw = s.clipOnDraw := rfl
@[simp] theorem State.setPc_draws (w : Word) : (s.setPc w).draws = s.draws := rfl
@[simp] theorem State.setPc_script (w : Word) : (s.setPc w).script = s.script := rfl

/-! ### advance -/

@[simp] theorem State.advance_v : (s.advance).v = s.v := rfl
@[simp] theorem State.advance_i : (s.advance).i = s.i := rfl
@[simp] theorem State.advance_pc : (s.advance).pc = s.pc + 2#16 := rfl
@[simp] theorem State.advance_stack : (s.advance).stack = s.stack := rfl
@[simp] theorem State.advance_sp : (s.advance).sp = s.sp := rfl
@[simp] theorem State.advance_dt : (s.advance).dt = s.dt := rfl
@[simp] theorem State.advance_st : (s.advance).st = s.st := rfl
@[simp] theorem State.advance_keys : (s.advance).keys = s.keys := rfl
@[simp] theorem State.advance_fb : (s.advance).fb = s.fb := rfl
@[simp] theorem State.advance_drawFlag : (s.advance).drawFlag = s.drawFlag := rfl
@[simp] theorem State.advance_wait : (s.advance).wait = s.wait := rfl
@[simp] theorem State.advance_fault : (s.advance).fault = s.fault := rfl
@[simp] theorem State.advance_mem : (s.advance).mem = s.mem := rfl
@[simp] theorem State.advance_displayWait : (s.advance).displayWait = s.displayWait := rfl
@[simp] theorem State.advance_clipOnDraw : (s.advance).clipOnDraw = s.clipOnDraw := rfl
@[simp] theorem State.advance_draws : (s.advance).draws = s.draws := rfl
@[simp] theorem State.advance_script : (s.advance).script = s.script := rfl

/-! ### setDt -/

@[simp] theorem State.setDt_v (b : Byte) : (s.setDt b).v = s.v := rfl
@[simp] theorem State.setDt_i (b : Byte) : (s.setDt b).i = s.i := rfl
@[simp] theorem State.setDt_pc (b : Byte) : (s.setDt b).pc = s.pc := rfl
@[simp] theorem State.setDt_stack (b : Byte) : (s.setDt b).stack = s.stack := rfl
@[simp] theorem State.setDt_sp (b : Byte) : (s.setDt b).sp = s.sp := rfl
@[simp] theorem State.setDt_dt (b : Byte) : (s.setDt b).dt = b := rfl
@[simp] theorem State.setDt_st (b : Byte) : (s.setDt b).st = s.st := rfl
@[simp] theorem State.setDt_keys (b : Byte) : (s.setDt b).keys = s.keys := rfl
@[simp] theorem State.setDt_fb (b : Byte) : (s.setDt b).fb = s.fb := rfl
@[simp] theorem State.setDt_drawFlag (b : Byte) : (s.setDt b).drawFlag = s.drawFlag := rfl
@[simp] theorem State.setDt_wait (b : Byte) : (s.setDt b).wait = s.wait := rfl
@[simp] theorem State.setDt_fault (b : Byte) : (s.setDt b).fault = s.fault := rfl
@[simp] theorem State.setDt_mem (b : Byte) : (s.setDt b).mem = s.mem := rfl
@[simp] theorem State.setDt_displayWait (b : Byte) : (s.setDt b).displayWait = s.displayWait := rfl
@[simp] theorem State.setDt_clipOnDraw (b : Byte) : (s.setDt b).clipOnDraw = s.clipOnDraw := rfl
@[simp] theorem State.setDt_draws (b : Byte) : (s.setDt b).draws = s.draws := rfl
@[simp] theorem State.setDt_script (b : Byte) : (s.setDt b).script = s.script := rfl

/-! ### setSt -/

@[simp] theorem State.setSt_v (b : Byte) : (s.setSt b).v = s.v := rfl
@[simp] theorem State.setSt_i (b : Byte) : (s.setSt b).i = s.i := rfl
@[simp] theorem State.setSt_pc (b : Byte) : (s.setSt b).pc = s.pc := rfl
@[simp] theorem State.setSt_stack (b : Byte) : (s.setSt b).stack = s.stack := rfl
@[simp] theorem State.setSt_sp (b : Byte) : (s.setSt b).sp = s.sp := rfl
@[simp] theorem State.setSt_dt (b : Byte) : (s.setSt b).dt = s.dt := rfl
@[simp] theorem State.setSt_st (b : Byte) : (s.setSt b).st = b := rfl
@[simp] theorem State.setSt_keys (b : Byte) : (s.setSt b).keys = s.keys := rfl
@[simp] theorem State.setSt_fb (b : Byte) : (s.setSt b).fb = s.fb := rfl
@[simp] theorem State.setSt_drawFlag (b : Byte) : (s.setSt b).drawFlag = s.drawFlag := rfl
@[simp] theorem State.setSt_wait (b : Byte) : (s.setSt b).wait = s.wait := rfl
@[simp] theorem State.setSt_fault (b : Byte) : (s.setSt b).fault = s.fault := rfl
@[simp] theorem State.setSt_mem (b : Byte) : (s.setSt b).mem = s.mem := rfl
@[simp] theorem State.setSt_displayWait (b : Byte) : (s.setSt b).displayWait = s.displayWait := rfl
@[simp] theorem State.setSt_clipOnDraw (b : Byte) : (s.setSt b).clipOnDraw = s.clipOnDraw := rfl
@[simp] theorem State.setSt_draws (b : Byte) : (s.setSt b).draws = s.draws := rfl
@[simp] theorem State.setSt_script (b : Byte) : (s.setSt b).script = s.script := rfl

/-! ### setMem -/

@[simp] theorem State.setMem_v (m : List Host.Cell) : (s.setMem m).v = s.v := rfl
@[simp] theorem State.setMem_i (m : List Host.Cell) : (s.setMem m).i = s.i := rfl
@[simp] theorem State.setMem_pc (m : List Host.Cell) : (s.setMem m).pc = s.pc := rfl
@[simp] theorem State.setMem_stack (m : List Host.Cell) : (s.setMem m).stack = s.stack := rfl
@[simp] theorem State.setMem_sp (m : List Host.Cell) : (s.setMem m).sp = s.sp := rfl
@[simp] theorem State.setMem_dt (m : List Host.Cell) : (s.setMem m).dt = s.dt := rfl
@[simp] theorem State.setMem_st (m : List Host.Cell) : (s.setMem m).st = s.st := rfl
@[simp] theorem State.setMem_keys (m : List Host.Cell) : (s.setMem m).keys = s.keys := rfl
@[simp] theorem State.setMem_fb (m : List Host.Cell) : (s.setMem m).fb = s.fb := rfl
@[simp] theorem State.setMem_drawFlag (m : List Host.Cell) : (s.setMem m).drawFlag = s.drawFlag := rfl
@[simp] theorem State.setMem_wait (m : List Host.Cell) : (s.setMem m).wait = s.wait := rfl
@[simp] theorem State.setMem_fault (m : List Host.Cell) : (s.setMem m).fault = s.fault := rfl
@[simp] theorem State.setMem_mem (m : List Host.Cell) : (s.setMem m).mem = m := rfl
@[simp] theorem State.setMem_displayWait (m : List Host.Cell) : (s.setMem m).displayWait = s.displayWait := rfl
@[simp] theorem State.setMem_clipOnDraw (m : List Host.Cell) : (s.setMem m).clipOnDraw = s.clipOnDraw := rfl
@[simp] theorem State.setMem_draws (m : List Host.Cell) : (s.setMem m).draws = s.draws := rfl
@[simp] theorem State.setMem_script (m : List Host.Cell) : (s.setMem m).script = s.script := rfl

/-! ### setFb -/

@[simp] theorem State.setFb_v (f : Vector (BitVec 64) 32) : (s.setFb f).v = s.v := rfl
@[simp] theorem State.setFb_i (f : Vector (BitVec 64) 32) : (s.setFb f).i = s.i := rfl
@[simp] theorem State.setFb_pc (f : Vector (BitVec 64) 32) : (s.setFb f).pc = s.pc := rfl
@[simp] theorem State.setFb_stack (f : Vector (BitVec 64) 32) : (s.setFb f).stack = s.stack := rfl
@[simp] theorem State.setFb_sp (f : Vector (BitVec 64) 32) : (s.setFb f).sp = s.sp := rfl
@[simp] theorem State.setFb_dt (f : Vector (BitVec 64) 32) : (s.setFb f).dt = s.dt := rfl
@[simp] theorem State.setFb_st (f : Vector (BitVec 64) 32) : (s.setFb f).st = s.st := rfl
@[simp] theorem State.setFb_keys (f : Vector (BitVec 64) 32) : (s.setFb f).keys = s.keys := rfl
@[simp] theorem State.setFb_fb (f : Vector (BitVec 64) 32) : (s.setFb f).fb = f := rfl
@[simp] theorem State.setFb_drawFlag (f : Vector (BitVec 64) 32) : (s.setFb f).drawFlag = s.drawFlag := rfl
@[simp] theorem State.setFb_wait (f : Vector (BitVec 64) 32) : (s.setFb f).wait = s.wait := rfl
@[simp] theorem State.setFb_fault (f : Vector (BitVec 64) 32) : (s.setFb f).fault = s.fault := rfl
@[simp] theorem State.setFb_mem (f : Vector (BitVec 64) 32) : (s.setFb f).mem = s.mem := rfl
@[simp] theorem State.setFb_displayWait (f : Vector (BitVec 64) 32) : (s.setFb f).displayWait = s.displayWait := rfl
@[simp] theorem State.setFb_clipOnDraw (f : Vector (BitVec 64) 32) : (s.setFb f).clipOnDraw = s.clipOnDraw := rfl
@[simp] theorem State.setFb_draws (f : Vector (BitVec 64) 32) : (s.setFb f).draws = s.draws := rfl
@[simp] theorem State.setFb_script (f : Vector (BitVec 64) 32) : (s.setFb f).script = s.script := rfl

/-! ### setDrawFlag -/

@[simp] theorem State.setDrawFlag_v (b : Bool) : (s.setDrawFlag b).v = s.v := rfl
@[simp] theorem State.setDrawFlag_i (b : Bool) : (s.setDrawFlag b).i = s.i := rfl
@[simp] theorem State.setDrawFlag_pc (b : Bool) : (s.setDrawFlag b).pc = s.pc := rfl
@[simp] theorem State.setDrawFlag_stack (b : Bool) : (s.setDrawFlag b).stack = s.stack := rfl
@[simp] theorem State.setDrawFlag_sp (b : Bool) : (s.setDrawFlag b).sp = s.sp := rfl
@[simp] theorem State.setDrawFlag_dt (b : Bool) : (s.setDrawFlag b).dt = s.dt := rfl
@[simp] theorem State.setDrawFlag_st (b : Bool) : (s.setDrawFlag b).st = s.st := rfl
@[simp] theorem State.setDrawFlag_keys (b : Bool) : (s.setDrawFlag b).keys = s.keys := rfl
@[simp] theorem State.setDrawFlag_fb (b : Bool) : (s.setDrawFlag b).fb = s.fb := rfl
@[simp] theorem State.setDrawFlag_drawFlag (b : Bool) : (s.setDrawFlag b).drawFlag = b := rfl
@[simp] theorem State.setDrawFlag_wait (b : Bool) : (s.setDrawFlag b).wait = s.wait := rfl
@[simp] theorem State.setDrawFlag_fault (b : Bool) : (s.setDrawFlag b).fault = s.fault := rfl
@[simp] theorem State.setDrawFlag_mem (b : Bool) : (s.setDrawFlag b).mem = s.mem := rfl
@[simp] theorem State.setDrawFlag_displayWait (b : Bool) : (s.setDrawFlag b).displayWait = s.displayWait := rfl
@[simp] theorem State.setDrawFlag_clipOnDraw (b : Bool) : (s.setDrawFlag b).clipOnDraw = s.clipOnDraw := rfl
@[simp] theorem State.setDrawFlag_draws (b : Bool) : (s.setDrawFlag b).draws = s.draws := rfl
@[simp] theorem State.setDrawFlag_script (b : Bool) : (s.setDrawFlag b).script = s.script := rfl

/-! ### setWait -/

@[simp] theorem State.setWait_v (w : Wait) : (s.setWait w).v = s.v := rfl
@[simp] theorem State.setWait_i (w : Wait) : (s.setWait w).i = s.i := rfl
@[simp] theorem State.setWait_pc (w : Wait) : (s.setWait w).pc = s.pc := rfl
@[simp] theorem State.setWait_stack (w : Wait) : (s.setWait w).stack = s.stack := rfl
@[simp] theorem State.setWait_sp (w : Wait) : (s.setWait w).sp = s.sp := rfl
@[simp] theorem State.setWait_dt (w : Wait) : (s.setWait w).dt = s.dt := rfl
@[simp] theorem State.setWait_st (w : Wait) : (s.setWait w).st = s.st := rfl
@[simp] theorem State.setWait_keys (w : Wait) : (s.setWait w).keys = s.keys := rfl
@[simp] theorem State.setWait_fb (w : Wait) : (s.setWait w).fb = s.fb := rfl
@[simp] theorem State.setWait_drawFlag (w : Wait) : (s.setWait w).drawFlag = s.drawFlag := rfl
@[simp] theorem State.setWait_wait (w : Wait) : (s.setWait w).wait = w := rfl
@[simp] theorem State.setWait_fault (w : Wait) : (s.setWait w).fault = s.fault := rfl
@[simp] theorem State.setWait_mem (w : Wait) : (s.setWait w).mem = s.mem := rfl
@[simp] theorem State.setWait_displayWait (w : Wait) : (s.setWait w).displayWait = s.displayWait := rfl
@[simp] theorem State.setWait_clipOnDraw (w : Wait) : (s.setWait w).clipOnDraw = s.clipOnDraw := rfl
@[simp] theorem State.setWait_draws (w : Wait) : (s.setWait w).draws = s.draws := rfl
@[simp] theorem State.setWait_script (w : Wait) : (s.setWait w).script = s.script := rfl

/-! ### setKey -/

@[simp] theorem State.setKey_v (k : Key) (b : Bool) : (s.setKey k b).v = s.v := rfl
@[simp] theorem State.setKey_i (k : Key) (b : Bool) : (s.setKey k b).i = s.i := rfl
@[simp] theorem State.setKey_pc (k : Key) (b : Bool) : (s.setKey k b).pc = s.pc := rfl
@[simp] theorem State.setKey_stack (k : Key) (b : Bool) : (s.setKey k b).stack = s.stack := rfl
@[simp] theorem State.setKey_sp (k : Key) (b : Bool) : (s.setKey k b).sp = s.sp := rfl
@[simp] theorem State.setKey_dt (k : Key) (b : Bool) : (s.setKey k b).dt = s.dt := rfl
@[simp] theorem State.setKey_st (k : Key) (b : Bool) : (s.setKey k b).st = s.st := rfl
@[simp] theorem State.setKey_fb (k : Key) (b : Bool) : (s.setKey k b).fb = s.fb := rfl
@[simp] theorem State.setKey_drawFlag (k : Key) (b : Bool) : (s.setKey k b).drawFlag = s.drawFlag := rfl
@[simp] theorem State.setKey_wait (k : Key) (b : Bool) : (s.setKey k b).wait = s.wait := rfl
@[simp] theorem State.setKey_fault (k : Key) (b : Bool) : (s.setKey k b).fault = s.fault := rfl
@[simp] theorem State.setKey_mem (k : Key) (b : Bool) : (s.setKey k b).mem = s.mem := rfl
@[simp] theorem State.setKey_displayWait (k : Key) (b : Bool) : (s.setKey k b).displayWait = s.displayWait := rfl
@[simp] theorem State.setKey_clipOnDraw (k : Key) (b : Bool) : (s.setKey k b).clipOnDraw = s.clipOnDraw := rfl
@[simp] theorem State.setKey_draws (k : Key) (b : Bool) : (s.setKey k b).draws = s.draws := rfl
@[simp] theorem State.setKey_script (k : Key) (b : Bool) : (s.setKey k b).script = s.script := rfl

/-! ### countDraw -/

@[simp] theorem State.countDraw_v : (s.countDraw).v = s.v := rfl
@[simp] theorem State.countDraw_i : (s.countDraw).i = s.i := rfl
@[simp] theorem State.countDraw_pc : (s.countDraw).pc = s.pc := rfl
@[simp] theorem State.countDraw_stack : (s.countDraw).stack = s.stack := rfl
@[simp] theorem State.countDraw_sp : (s.countDraw).sp = s.sp := rfl
@[simp] theorem State.countDraw_dt : (s.countDraw).dt = s.dt := rfl
@[simp] theorem State.countDraw_st : (s.countDraw).st = s.st := rfl
@[simp] theorem State.countDraw_keys : (s.countDraw).keys = s.keys := rfl
@[simp] theorem State.countDraw_fb : (s.countDraw).fb = s.fb := rfl
@[simp] theorem State.countDraw_drawFlag : (s.countDraw).drawFlag = s.drawFlag := rfl
@[simp] theorem State.countDraw_wait : (s.countDraw).wait = s.wait := rfl
@[simp] theorem State.countDraw_fault : (s.countDraw).fault = s.fault := rfl
@[simp] theorem State.countDraw_mem : (s.countDraw).mem = s.mem := rfl
@[simp] theorem State.countDraw_displayWait : (s.countDraw).displayWait = s.displayWait := rfl
@[simp] theorem State.countDraw_clipOnDraw : (s.countDraw).clipOnDraw = s.clipOnDraw := rfl
@[simp] theorem State.countDraw_draws : (s.countDraw).draws = s.draws + 1 := rfl
@[simp] theorem State.countDraw_script : (s.countDraw).script = s.script := rfl

/-! ### setScript -/

@[simp] theorem State.setScript_v (es : List Event) : (s.setScript es).v = s.v := rfl
@[simp] theorem State.setScript_i (es : List Event) : (s.setScript es).i = s.i := rfl
@[simp] theorem State.setScript_pc (es : List Event) : (s.setScript es).pc = s.pc := rfl
@[simp] theorem State.setScript_stack (es : List Event) : (s.setScript es).stack = s.stack := rfl
@[simp] theorem State.setScript_sp (es : List Event) : (s.setScript es).sp = s.sp := rfl
@[simp] theorem State.setScript_dt (es : List Event) : (s.setScript es).dt = s.dt := rfl
@[simp] theorem State.setScript_st (es : List Event) : (s.setScript es).st = s.st := rfl
@[simp] theorem State.setScript_keys (es : List Event) : (s.setScript es).keys = s.keys := rfl
@[simp] theorem State.setScript_fb (es : List Event) : (s.setScript es).fb = s.fb := rfl
@[simp] theorem State.setScript_drawFlag (es : List Event) : (s.setScript es).drawFlag = s.drawFlag := rfl
@[simp] theorem State.setScript_wait (es : List Event) : (s.setScript es).wait = s.wait := rfl
@[simp] theorem State.setScript_fault (es : List Event) : (s.setScript es).fault = s.fault := rfl
@[simp] theorem State.setScript_mem (es : List Event) : (s.setScript es).mem = s.mem := rfl
@[simp] theorem State.setScript_displayWait (es : List Event) : (s.setScript es).displayWait = s.displayWait := rfl
@[simp] theorem State.setScript_clipOnDraw (es : List Event) : (s.setScript es).clipOnDraw = s.clipOnDraw := rfl
@[simp] theorem State.setScript_draws (es : List Event) : (s.setScript es).draws = s.draws := rfl
@[simp] theorem State.setScript_script (es : List Event) : (s.setScript es).script = es := rfl

/-! ### raise -/

@[simp] theorem State.raise_v (f : Fault) : (s.raise f).v = s.v := rfl
@[simp] theorem State.raise_i (f : Fault) : (s.raise f).i = s.i := rfl
@[simp] theorem State.raise_pc (f : Fault) : (s.raise f).pc = s.pc := rfl
@[simp] theorem State.raise_stack (f : Fault) : (s.raise f).stack = s.stack := rfl
@[simp] theorem State.raise_sp (f : Fault) : (s.raise f).sp = s.sp := rfl
@[simp] theorem State.raise_dt (f : Fault) : (s.raise f).dt = s.dt := rfl
@[simp] theorem State.raise_st (f : Fault) : (s.raise f).st = s.st := rfl
@[simp] theorem State.raise_keys (f : Fault) : (s.raise f).keys = s.keys := rfl
@[simp] theorem State.raise_fb (f : Fault) : (s.raise f).fb = s.fb := rfl
@[simp] theorem State.raise_drawFlag (f : Fault) : (s.raise f).drawFlag = s.drawFlag := rfl
@[simp] theorem State.raise_wait (f : Fault) : (s.raise f).wait = s.wait := rfl
@[simp] theorem State.raise_fault (f : Fault) : (s.raise f).fault = some f := rfl
@[simp] theorem State.raise_mem (f : Fault) : (s.raise f).mem = s.mem := rfl
@[simp] theorem State.raise_displayWait (f : Fault) : (s.raise f).displayWait = s.displayWait := rfl
@[simp] theorem State.raise_clipOnDraw (f : Fault) : (s.raise f).clipOnDraw = s.clipOnDraw := rfl
@[simp] theorem State.raise_draws (f : Fault) : (s.raise f).draws = s.draws := rfl
@[simp] theorem State.raise_script (f : Fault) : (s.raise f).script = s.script := rfl

/-! ### setFlag -/

@[simp] theorem State.setFlag_i (b : Bool) : (s.setFlag b).i = s.i := rfl
@[simp] theorem State.setFlag_pc (b : Bool) : (s.setFlag b).pc = s.pc := rfl
@[simp] theorem State.setFlag_stack (b : Bool) : (s.setFlag b).stack = s.stack := rfl
@[simp] theorem State.setFlag_sp (b : Bool) : (s.setFlag b).sp = s.sp := rfl
@[simp] theorem State.setFlag_dt (b : Bool) : (s.setFlag b).dt = s.dt := rfl
@[simp] theorem State.setFlag_st (b : Bool) : (s.setFlag b).st = s.st := rfl
@[simp] theorem State.setFlag_keys (b : Bool) : (s.setFlag b).keys = s.keys := rfl
@[simp] theorem State.setFlag_fb (b : Bool) : (s.setFlag b).fb = s.fb := rfl
@[simp] theorem State.setFlag_drawFlag (b : Bool) : (s.setFlag b).drawFlag = s.drawFlag := rfl
@[simp] theorem State.setFlag_wait (b : Bool) : (s.setFlag b).wait = s.wait := rfl
@[simp] theorem State.setFlag_fault (b : Bool) : (s.setFlag b).fault = s.fault := rfl
@[simp] theorem State.setFlag_mem (b : Bool) : (s.setFlag b).mem = s.mem := rfl
@[simp] theorem State.setFlag_displayWait (b : Bool) : (s.setFlag b).displayWait = s.displayWait := rfl
@[simp] theorem State.setFlag_clipOnDraw (b : Bool) : (s.setFlag b).clipOnDraw = s.clipOnDraw := rfl
@[simp] theorem State.setFlag_draws (b : Bool) : (s.setFlag b).draws = s.draws := rfl
@[simp] theorem State.setFlag_script (b : Bool) : (s.setFlag b).script = s.script := rfl

/-! ### setResultAndFlag -/

@[simp] theorem State.setResultAndFlag_i (x : RegIdx) (result : Byte) (flag : Bool) : (s.setResultAndFlag x result flag).i = s.i := rfl
@[simp] theorem State.setResultAndFlag_pc (x : RegIdx) (result : Byte) (flag : Bool) : (s.setResultAndFlag x result flag).pc = s.pc := rfl
@[simp] theorem State.setResultAndFlag_stack (x : RegIdx) (result : Byte) (flag : Bool) : (s.setResultAndFlag x result flag).stack = s.stack := rfl
@[simp] theorem State.setResultAndFlag_sp (x : RegIdx) (result : Byte) (flag : Bool) : (s.setResultAndFlag x result flag).sp = s.sp := rfl
@[simp] theorem State.setResultAndFlag_dt (x : RegIdx) (result : Byte) (flag : Bool) : (s.setResultAndFlag x result flag).dt = s.dt := rfl
@[simp] theorem State.setResultAndFlag_st (x : RegIdx) (result : Byte) (flag : Bool) : (s.setResultAndFlag x result flag).st = s.st := rfl
@[simp] theorem State.setResultAndFlag_keys (x : RegIdx) (result : Byte) (flag : Bool) : (s.setResultAndFlag x result flag).keys = s.keys := rfl
@[simp] theorem State.setResultAndFlag_fb (x : RegIdx) (result : Byte) (flag : Bool) : (s.setResultAndFlag x result flag).fb = s.fb := rfl
@[simp] theorem State.setResultAndFlag_drawFlag (x : RegIdx) (result : Byte) (flag : Bool) : (s.setResultAndFlag x result flag).drawFlag = s.drawFlag := rfl
@[simp] theorem State.setResultAndFlag_wait (x : RegIdx) (result : Byte) (flag : Bool) : (s.setResultAndFlag x result flag).wait = s.wait := rfl
@[simp] theorem State.setResultAndFlag_fault (x : RegIdx) (result : Byte) (flag : Bool) : (s.setResultAndFlag x result flag).fault = s.fault := rfl
@[simp] theorem State.setResultAndFlag_mem (x : RegIdx) (result : Byte) (flag : Bool) : (s.setResultAndFlag x result flag).mem = s.mem := rfl
@[simp] theorem State.setResultAndFlag_displayWait (x : RegIdx) (result : Byte) (flag : Bool) : (s.setResultAndFlag x result flag).displayWait = s.displayWait := rfl
@[simp] theorem State.setResultAndFlag_clipOnDraw (x : RegIdx) (result : Byte) (flag : Bool) : (s.setResultAndFlag x result flag).clipOnDraw = s.clipOnDraw := rfl
@[simp] theorem State.setResultAndFlag_draws (x : RegIdx) (result : Byte) (flag : Bool) : (s.setResultAndFlag x result flag).draws = s.draws := rfl
@[simp] theorem State.setResultAndFlag_script (x : RegIdx) (result : Byte) (flag : Bool) : (s.setResultAndFlag x result flag).script = s.script := rfl

/-! ### skipIf -/

@[simp] theorem State.skipIf_v (c : Bool) : (s.skipIf c).v = s.v := by cases c <;> rfl
@[simp] theorem State.skipIf_i (c : Bool) : (s.skipIf c).i = s.i := by cases c <;> rfl
@[simp] theorem State.skipIf_pc (c : Bool) :
    (s.skipIf c).pc = if c then s.pc + 4#16 else s.pc + 2#16 := by cases c <;> rfl
@[simp] theorem State.skipIf_stack (c : Bool) : (s.skipIf c).stack = s.stack := by cases c <;> rfl
@[simp] theorem State.skipIf_sp (c : Bool) : (s.skipIf c).sp = s.sp := by cases c <;> rfl
@[simp] theorem State.skipIf_dt (c : Bool) : (s.skipIf c).dt = s.dt := by cases c <;> rfl
@[simp] theorem State.skipIf_st (c : Bool) : (s.skipIf c).st = s.st := by cases c <;> rfl
@[simp] theorem State.skipIf_keys (c : Bool) : (s.skipIf c).keys = s.keys := by cases c <;> rfl
@[simp] theorem State.skipIf_fb (c : Bool) : (s.skipIf c).fb = s.fb := by cases c <;> rfl
@[simp] theorem State.skipIf_drawFlag (c : Bool) : (s.skipIf c).drawFlag = s.drawFlag := by cases c <;> rfl
@[simp] theorem State.skipIf_wait (c : Bool) : (s.skipIf c).wait = s.wait := by cases c <;> rfl
@[simp] theorem State.skipIf_fault (c : Bool) : (s.skipIf c).fault = s.fault := by cases c <;> rfl
@[simp] theorem State.skipIf_mem (c : Bool) : (s.skipIf c).mem = s.mem := by cases c <;> rfl
@[simp] theorem State.skipIf_displayWait (c : Bool) : (s.skipIf c).displayWait = s.displayWait := by cases c <;> rfl
@[simp] theorem State.skipIf_clipOnDraw (c : Bool) : (s.skipIf c).clipOnDraw = s.clipOnDraw := by cases c <;> rfl
@[simp] theorem State.skipIf_draws (c : Bool) : (s.skipIf c).draws = s.draws := by cases c <;> rfl
@[simp] theorem State.skipIf_script (c : Bool) : (s.skipIf c).script = s.script := by cases c <;> rfl

/-! ### Registers and keys through the updates that leave them alone -/

@[simp] theorem State.setI_reg (w : Word) (y : RegIdx) : (s.setI w).reg y = s.reg y := rfl
@[simp] theorem State.setPc_reg (w : Word) (y : RegIdx) : (s.setPc w).reg y = s.reg y := rfl
@[simp] theorem State.advance_reg (y : RegIdx) : (s.advance).reg y = s.reg y := rfl
@[simp] theorem State.setDt_reg (b : Byte) (y : RegIdx) : (s.setDt b).reg y = s.reg y := rfl
@[simp] theorem State.setSt_reg (b : Byte) (y : RegIdx) : (s.setSt b).reg y = s.reg y := rfl
@[simp] theorem State.setMem_reg (m : List Host.Cell) (y : RegIdx) : (s.setMem m).reg y = s.reg y := rfl
@[simp] theorem State.setFb_reg (f : Vector (BitVec 64) 32) (y : RegIdx) : (s.setFb f).reg y = s.reg y := rfl
@[simp] theorem State.setDrawFlag_reg (b : Bool) (y : RegIdx) : (s.setDrawFlag b).reg y = s.reg y := rfl
@[simp] theorem State.setWait_reg (w : Wait) (y : RegIdx) : (s.setWait w).reg y = s.reg y := rfl
@[simp] theorem State.setKey_reg (k : Key) (b : Bool) (y : RegIdx) : (s.setKey k b).reg y = s.reg y := rfl
@[simp] theorem State.countDraw_reg (y : RegIdx) : (s.countDraw).reg y = s.reg y := rfl
@[simp] theorem State.setScript_reg (es : List Event) (y : RegIdx) : (s.setScript es).reg y = s.reg y := rfl
@[simp] theorem State.raise_reg (f : Fault) (y : RegIdx) : (s.raise f).reg y = s.reg y := rfl
@[simp] theorem State.skipIf_reg (c : Bool) (y : RegIdx) : (s.skipIf c).reg y = s.reg y := by
  cases c <;> rfl
@[simp] theorem State.setReg_byte (x : RegIdx) (b : Byte) (a : Nat) : (s.setReg x b).byte a = s.byte a := rfl
@[simp] theorem State.loadRegList_byte (bytes : List Byte) (a : Nat) : (s.loadRegList bytes).byte a = s.byte a := rfl
@[simp] theorem State.setI_byte (w : Word) (a : Nat) : (s.setI w).byte a = s.byte a := rfl
@[simp] theorem State.setPc_byte (w : Word) (a : Nat) : (s.setPc w).byte a = s.byte a := rfl
@[simp] theorem State.advance_byte (a : Nat) : (s.advance).byte a = s.byte a := rfl
@[simp] theorem State.setDt_byte (b : Byte) (a : Nat) : (s.setDt b).byte a = s.byte a := rfl
@[simp] theorem State.setSt_byte (b : Byte) (a : Nat) : (s.setSt b).byte a = s.byte a := rfl
@[simp] theorem State.setFb_byte (f : Vector (BitVec 64) 32) (a : Nat) : (s.setFb f).byte a = s.byte a := rfl
@[simp] theorem State.setDrawFlag_byte (b : Bool) (a : Nat) : (s.setDrawFlag b).byte a = s.byte a := rfl
@[simp] theorem State.setWait_byte (w : Wait) (a : Nat) : (s.setWait w).byte a = s.byte a := rfl
@[simp] theorem State.setKey_byte (k : Key) (b : Bool) (a : Nat) : (s.setKey k b).byte a = s.byte a := rfl
@[simp] theorem State.countDraw_byte (a : Nat) : (s.countDraw).byte a = s.byte a := rfl
@[simp] theorem State.setScript_byte (es : List Event) (a : Nat) : (s.setScript es).byte a = s.byte a := rfl
@[simp] theorem State.raise_byte (f : Fault) (a : Nat) : (s.raise f).byte a = s.byte a := rfl
@[simp] theorem State.setFlag_byte (b : Bool) (a : Nat) : (s.setFlag b).byte a = s.byte a := rfl
@[simp] theorem State.setResultAndFlag_byte (x : RegIdx) (result : Byte) (flag : Bool) (a : Nat) : (s.setResultAndFlag x result flag).byte a = s.byte a := rfl
@[simp] theorem State.skipIf_byte (c : Bool) (a : Nat) : (s.skipIf c).byte a = s.byte a := by
  cases c <;> rfl

end Sys2Proof.Machine
end

