-- ==== Sys2Proof/Laws/Memory.lean ====
section
/-! SUPPORT. The laws of memory: a read after a write (for every list, sorted or not), the reads of a block
store, and that every memory operation keeps the canonical form. -/

namespace Sys2Proof.Machine

/-! ## Reading what was written -/

theorem memByte_memErase (m : List Host.Cell) (a c : Nat) :
    memByte (memErase m a) c = if c = a then resetByte a else memByte m c := by
  induction m with
  | nil => by_cases h : c = a <;> simp [memErase, memByte, h]
  | cons hd rest ih =>
    obtain ⟨k, b⟩ := hd
    by_cases hk : k = a
    · have : memErase ((k, b) :: rest) a = memErase rest a := by simp [memErase, hk]
      rw [this, ih]
      by_cases hc : c = a
      · simp [hc]
      · have : ¬ k = c := by omega
        simp [memByte, hc, this]
    · have : memErase ((k, b) :: rest) a = (k, b) :: memErase rest a := by simp [memErase, hk]
      rw [this]
      by_cases hkc : k = c
      · have : ¬ c = a := by omega
        simp [memByte, hkc, this]
      · simp [memByte, hkc, ih]

theorem memByte_memInsert (m : List Host.Cell) (a : Nat) (b : Byte) (c : Nat)
    (h : ∀ x ∈ m, x.1 ≠ a) :
    memByte (memInsert m a b) c = if c = a then b else memByte m c := by
  induction m with
  | nil =>
    by_cases hc : c = a
    · simp [memInsert, memByte, hc]
    · have : ¬ a = c := by omega
      simp [memInsert, memByte, hc, this]
  | cons hd rest ih =>
    obtain ⟨k, d⟩ := hd
    have hk : k ≠ a := h (k, d) (by simp)
    have ih := ih fun x hx => h x (by simp [hx])
    by_cases hlt : a < k
    · by_cases hc : c = a
      · simp [memInsert, memByte, hlt, hc]
      · have : ¬ a = c := by omega
        simp [memInsert, memByte, hlt, hc, this]
    · by_cases hkc : k = c
      · have : ¬ c = a := by omega
        simp [memInsert, memByte, ← hkc, hlt, hk]
      · simp [memInsert, memByte, hlt, hkc, ih]

theorem memErase_absent (m : List Host.Cell) (a : Nat) : ∀ x ∈ memErase m a, x.1 ≠ a := by
  simp [memErase]

/-- A read after a one-byte write: the byte written at its address, the old byte everywhere else (R58). -/
theorem memByte_memPut (m : List Host.Cell) (a : Nat) (b : Byte) (c : Nat) :
    memByte (memPut m a b) c = if c = a then b else memByte m c := by
  unfold memPut
  split
  · rename_i h
    rw [memByte_memErase, h]
  · rw [memByte_memInsert _ _ _ _ (memErase_absent m a), memByte_memErase]
    by_cases hc : c = a <;> simp [hc]

/-- A read after a block write: byte `c - a` of the block inside it, the old byte outside. -/
theorem memByte_memPuts (bs : List Byte) (m : List Host.Cell) (a c : Nat) :
    memByte (memPuts m a bs) c =
      if a ≤ c ∧ c < a + bs.length then bs.getD (c - a) 0x00#8 else memByte m c := by
  induction bs generalizing m a with
  | nil =>
    have : ¬ (a ≤ c ∧ c < a) := by omega
    simp [memPuts, this]
  | cons b bs ih =>
    rw [memPuts, ih, memByte_memPut]
    simp only [List.length_cons]
    by_cases h1 : c = a
    · subst h1
      simp [show ¬ (c + 1 ≤ c) by omega]
    · by_cases h2 : a + 1 ≤ c ∧ c < a + 1 + bs.length
      · rw [if_pos h2, if_pos (by omega), show c - a = (c - (a + 1)) + 1 by omega]
        simp
      · rw [if_neg h2, if_neg h1, if_neg (by omega)]

@[simp] theorem memBytes_length (m : List Host.Cell) (a n : Nat) : (memBytes m a n).length = n := by
  induction n generalizing a with
  | zero => rfl
  | succ n ih => simp [memBytes, ih]

/-- Byte `j` of a block read is the byte at `a + j`, lowest address first (R10). -/
theorem memBytes_getD (m : List Host.Cell) (a n j : Nat) (d : Byte) :
    (memBytes m a n).getD j d = if j < n then memByte m (a + j) else d := by
  induction n generalizing a j with
  | zero => simp [memBytes]
  | succ n ih =>
    cases j with
    | zero => simp [memBytes]
    | succ j =>
      have := ih (a + 1) j
      simp only [memBytes, List.getD_cons_succ, this, show a + 1 + j = a + (j + 1) by omega,
        Nat.add_lt_add_iff_right]

/-- Byte `j` of a block read, by its index. -/
theorem memBytes_getElem (m : List Host.Cell) (a n j : Nat) (h : j < (memBytes m a n).length) :
    (memBytes m a n)[j] = memByte m (a + j) := by
  have hj : j < n := by simpa using h
  have := memBytes_getD m a n j 0x00#8
  simpa [List.getD_eq_getElem?_getD, h, hj] using this

/-- What `MemRead` can answer (R10, R56). -/
theorem memRead_eq_some {m : List Host.Cell} {a n : Nat} {bs : List Byte} :
    memRead m a n = some bs ↔ (n = 0 ∨ a + n ≤ memSize) ∧ bs = memBytes m a n := by
  unfold memRead inBounds
  by_cases h : n = 0 ∨ a + n ≤ memSize
  · simp [h, eq_comm]
  · simp [h]

theorem memRead_eq_none {m : List Host.Cell} {a n : Nat} :
    memRead m a n = none ↔ 0 < n ∧ memSize < a + n := by
  unfold memRead inBounds
  by_cases h : n = 0 ∨ a + n ≤ memSize
  · simp [h]; omega
  · simp [h]; omega

/-- What `MemWrite` can answer (R10, R56). -/
theorem memWrite_eq_some {m m' : List Host.Cell} {a : Nat} {bs : List Byte} :
    memWrite m a bs = some m' ↔ (bs.length = 0 ∨ a + bs.length ≤ memSize) ∧ m' = memPuts m a bs := by
  unfold memWrite inBounds
  by_cases h : bs.length = 0 ∨ a + bs.length ≤ memSize
  · simp only [h, decide_true, if_true, Option.some.injEq, true_and]
    exact eq_comm
  · simp only [h, decide_false, Bool.false_eq_true, if_false, false_and, reduceCtorEq]

theorem memWrite_eq_none {m : List Host.Cell} {a : Nat} {bs : List Byte} :
    memWrite m a bs = none ↔ 0 < bs.length ∧ memSize < a + bs.length := by
  unfold memWrite inBounds
  by_cases h : bs.length = 0 ∨ a + bs.length ≤ memSize
  · simp only [h, decide_true, if_true, reduceCtorEq, false_iff]; omega
  · simp only [h, decide_false, Bool.false_eq_true, if_false, true_iff]; omega

/-! ## The canonical form -/

theorem memSortedFrom_mono {m : List Host.Cell} {lo hi : Nat} (h : lo ≤ hi)
    (hm : memSortedFrom hi m = true) : memSortedFrom lo m = true := by
  cases m with
  | nil => rfl
  | cons hd rest =>
    obtain ⟨k, b⟩ := hd
    simp only [memSortedFrom, Bool.and_eq_true, decide_eq_true_eq] at hm ⊢
    exact ⟨⟨⟨by omega, hm.1.1.2⟩, hm.1.2⟩, hm.2⟩

theorem memSortedFrom_erase {m : List Host.Cell} {lo : Nat} (a : Nat) (hm : memSortedFrom lo m = true) :
    memSortedFrom lo (memErase m a) = true := by
  induction m generalizing lo with
  | nil => rfl
  | cons hd rest ih =>
    obtain ⟨k, b⟩ := hd
    simp only [memSortedFrom, Bool.and_eq_true, decide_eq_true_eq] at hm
    have hrest := ih hm.2
    by_cases hk : k = a
    · have : memErase ((k, b) :: rest) a = memErase rest a := by simp [memErase, hk]
      rw [this]
      exact memSortedFrom_mono (by omega) hrest
    · have : memErase ((k, b) :: rest) a = (k, b) :: memErase rest a := by simp [memErase, hk]
      rw [this]
      simp only [memSortedFrom, Bool.and_eq_true, decide_eq_true_eq]
      exact ⟨hm.1, hrest⟩

theorem memSortedFrom_insert {m : List Host.Cell} {lo a : Nat} {b : Byte} (hm : memSortedFrom lo m = true)
    (habs : ∀ x ∈ m, x.1 ≠ a) (hlo : lo ≤ a) (ha : a < memSize) (hb : b ≠ resetByte a) :
    memSortedFrom lo (memInsert m a b) = true := by
  induction m generalizing lo with
  | nil => simp [memInsert, memSortedFrom, hlo, ha, hb]
  | cons hd rest ih =>
    obtain ⟨k, c⟩ := hd
    have hk : k ≠ a := habs (k, c) (by simp)
    simp only [memSortedFrom, Bool.and_eq_true, decide_eq_true_eq] at hm
    by_cases hlt : a < k
    · simp only [memInsert, hlt, if_true, memSortedFrom, Bool.and_eq_true, decide_eq_true_eq]
      exact ⟨⟨⟨hlo, ha⟩, hb⟩, ⟨⟨by omega, hm.1.1.2⟩, hm.1.2⟩, hm.2⟩
    · simp only [memInsert, hlt, if_false, memSortedFrom, Bool.and_eq_true, decide_eq_true_eq]
      exact ⟨hm.1, ih hm.2 (fun x hx => habs x (by simp [hx])) (by omega)⟩

/-- A one-byte write inside memory keeps the canonical form. -/
theorem memWf_memPut {m : List Host.Cell} {a : Nat} (b : Byte) (hm : memWf m = true) (ha : a < memSize) :
    memWf (memPut m a b) = true := by
  unfold memPut
  split
  · exact memSortedFrom_erase a hm
  · rename_i hb
    exact memSortedFrom_insert (memSortedFrom_erase a hm) (memErase_absent m a) (Nat.zero_le a) ha hb

/-- A block write inside memory keeps the canonical form. -/
theorem memWf_memPuts {m : List Host.Cell} (bs : List Byte) {a : Nat} (hm : memWf m = true)
    (ha : bs.length = 0 ∨ a + bs.length ≤ memSize) : memWf (memPuts m a bs) = true := by
  induction bs generalizing m a with
  | nil => exact hm
  | cons b bs ih =>
    simp only [List.length_cons] at ha
    exact ih (memWf_memPut b hm (by omega)) (by omega)

/-- `MemWrite` keeps the canonical form. -/
theorem memWf_memWrite {m m' : List Host.Cell} {a : Nat} {bs : List Byte} (hm : memWf m = true)
    (h : memWrite m a bs = some m') : memWf m' = true := by
  obtain ⟨hb, rfl⟩ := memWrite_eq_some.mp h
  exact memWf_memPuts bs hm hb

/-- Placing an instruction word keeps the canonical form. -/
theorem memWf_storeWord {m : List Host.Cell} {a : Nat} (w : Word) (hm : memWf m = true)
    (ha : a + 2 ≤ memSize) : memWf (storeWord m a w) = true :=
  memWf_memPuts _ hm (Or.inr ha)

/-- Memory after reset is in canonical form. -/
theorem memWf_reset : memWf State.reset.mem = true := rfl

end Sys2Proof.Machine
end

