-- ==== Sys2Proof/Laws/Ops.lean ====
section
/-! SUPPORT. One law per shared operation, saying everything it can do: registers, keys, the call stack,
taking a fault, host events on a stopped core, fetch, the framebuffer. -/

namespace Sys2Proof.Machine

/-! ## Registers -/

/-- A register after a register write (R9, R21). -/
theorem State.reg_setReg (s : State) (x y : RegIdx) (b : Byte) :
    (s.setReg x b).reg y = if y = x then b else s.reg y := by
  unfold State.reg State.setReg
  simp only [Vector.getElem_set]
  by_cases h : y = x
  · simp [h]
  · have : ¬ x.toNat = y.toNat := fun e => h (BitVec.eq_of_toNat_eq e.symm)
    simp [h, this]

/-- A register after the flag is written. -/
theorem State.reg_setFlag (s : State) (b : Bool) (y : RegIdx) :
    (s.setFlag b).reg y = if y = vF then flagByte b else s.reg y :=
  State.reg_setReg s vF y _

/-- A register after result and flag are written, the flag last (R107). -/
theorem State.reg_setResultAndFlag (s : State) (x y : RegIdx) (r : Byte) (f : Bool) :
    (s.setResultAndFlag x r f).reg y =
      if y = vF then flagByte f else if y = x then r else s.reg y := by
  unfold State.setResultAndFlag
  rw [State.reg_setFlag, State.reg_setReg]

/-- A register after a block load: the byte of the block, or the old value above it (R170). -/
theorem State.reg_loadRegList (s : State) (bytes : List Byte) (y : RegIdx) :
    (s.loadRegList bytes).reg y = bytes.getD y.toNat (s.reg y) := by
  unfold State.reg State.loadRegList
  simp

theorem State.regsUpTo_length (s : State) (x : RegIdx) : (s.regsUpTo x).length = blockLen x := by
  have := x.isLt
  simp [State.regsUpTo, blockLen]
  omega

/-- Byte `j` of `V0..Vx` is `V[j]` (R169). -/
theorem State.regsUpTo_getD (s : State) (x y : RegIdx) (d : Byte) (h : y.toNat ≤ x.toNat) :
    (s.regsUpTo x).getD y.toNat d = s.reg y := by
  have := y.isLt
  have hlen : y.toNat < (s.regsUpTo x).length := by
    rw [State.regsUpTo_length]; simp [blockLen]; omega
  simp only [List.getD, List.getElem?_eq_getElem hlen, Option.getD_some]
  simp [State.regsUpTo, State.reg]

/-! ## Keys -/

/-- A key after a key event (R242, R243). -/
theorem State.key_setKey (s : State) (k l : Key) (b : Bool) :
    (s.setKey k b).key l = if l = k then b else s.key l := by
  unfold State.key State.setKey
  simp only [Vector.getElem_set]
  by_cases h : l = k
  · simp [h]
  · have : ¬ k.val = l.val := fun e => h (Fin.ext e.symm)
    simp [h, this]

/-! ## The call stack -/

/-- What a push can answer (R117, R25). -/
theorem State.push_eq_some {s t : State} {w : Word} :
    s.push w = some t ↔ ∃ h : s.sp.val < 16,
      t = { s with stack := s.stack.set s.sp.val w h, sp := ⟨s.sp.val + 1, by omega⟩ } := by
  unfold State.push
  by_cases h : s.sp.val < 16
  · simp [h, eq_comm]
  · simp [h]

theorem State.push_eq_none {s : State} {w : Word} : s.push w = none ↔ s.sp.val = 16 := by
  unfold State.push
  by_cases h : s.sp.val < 16
  · simp [h]; omega
  · simp [h]; omega

/-- What a pop can answer (R115, R25). -/
theorem State.pop_eq_some {s t : State} {w : Word} :
    s.pop = some (w, t) ↔ ∃ _ : 0 < s.sp.val,
      w = s.stack[s.sp.val - 1]'(by omega) ∧ t = { s with sp := ⟨s.sp.val - 1, by omega⟩ } := by
  unfold State.pop
  by_cases h : 0 < s.sp.val
  · simp [h, eq_comm]
  · simp [h]

theorem State.pop_eq_none {s : State} : s.pop = none ↔ s.sp.val = 0 := by
  unfold State.pop
  by_cases h : 0 < s.sp.val
  · simp [h]; omega
  · simp [h]; omega

/-! ## Faults and stopped cores -/

/-- What a faulting instruction can answer: its completion, or the fault entry alone (R231). -/
theorem orRaise_eq_next {α : Type} {r : Option α} {f : Fault} {s t : State} {k : α → State} :
    orRaise r f s k = .next t ↔ (∃ a, r = some a ∧ t = k a) ∨ (r = none ∧ t = s.raise f) := by
  cases r <;> simp [orRaise, eq_comm]

/-- It always answers a next state. -/
theorem orRaise_total {α : Type} (r : Option α) (f : Fault) (s : State) (k : α → State) :
    ∃ t, orRaise r f s k = .next t := by
  cases r <;> exact ⟨_, rfl⟩

theorem State.whenRunning_running {s : State} (t : State) (h : s.fault = none) : s.whenRunning t = t := by
  simp [State.whenRunning, h]

/-- A stopped core is left unchanged (R233). -/
theorem State.whenRunning_stopped {s : State} (t : State) {f : Fault} (h : s.fault = some f) :
    s.whenRunning t = s := by
  simp [State.whenRunning, h]

/-! ## Fetch -/

/-- What a fetch can answer: the big-endian word of the two bytes at `PC` (R53, R57). -/
theorem State.fetch_eq_some {s : State} {w : Word} :
    s.fetch = some w ↔ s.pc.toNat ≤ 0xFFE ∧ w = wordOfBytes (s.byte s.pc.toNat) (s.byte (s.pc.toNat + 1)) := by
  unfold State.fetch State.byte
  by_cases h : s.pc.toNat ≤ 0xFFE
  · simp [h, eq_comm]
  · simp [h]

theorem State.fetch_eq_none {s : State} : s.fetch = none ↔ 0xFFE < s.pc.toNat := by
  unfold State.fetch
  by_cases h : s.pc.toNat ≤ 0xFFE
  · simp [h]
  · simp [h]; omega

/-! ## The keypad operand -/

/-- The key a register names is its value, when that is at most 15 (R205). -/
theorem keyOf_eq_some {vx : Byte} {k : Key} : keyOf vx = some k ↔ k.val = vx.toNat := by
  unfold keyOf
  by_cases h : vx.toNat < 16
  · simp [h, Fin.ext_iff, eq_comm]
  · simp [h]; omega

theorem keyOf_eq_none {vx : Byte} : keyOf vx = none ↔ 15 < vx.toNat := by
  unfold keyOf
  by_cases h : vx.toNat < 16
  · simp [h]; omega
  · simp [h]; omega

/-! ## The framebuffer -/

/-- A pixel after one `Toggle`: the pixel named is flipped, every other is left alone (R185). -/
theorem pixel_toggle (f : Vector (BitVec 64) 32) (x x' : Col) (y y' : Row) :
    pixel (toggle f x y) x' y' = (pixel f x' y' ^^ decide (x' = x ∧ y' = y)) := by
  unfold pixel toggle
  simp only [Vector.getElem_set]
  by_cases hy : y' = y
  · subst hy
    have := x'.isLt
    by_cases hx : x' = x
    · subst hx
      simp
    · have : ¬ x'.val = x.val := fun e => hx (Fin.ext e)
      simp [hx, this]
  · have : ¬ y.val = y'.val := fun e => hy (Fin.ext e.symm)
    simp [hy, this]

/-- Every pixel of a cleared screen is off (R186). -/
@[simp] theorem pixel_clearFb (x : Col) (y : Row) : pixel clearFb x y = false := by
  simp [pixel, clearFb]

/-- Two framebuffers with the same pixels are the same. -/
theorem fb_ext {f g : Vector (BitVec 64) 32} (h : ∀ x y, pixel f x y = pixel g x y) : f = g := by
  apply Vector.ext
  intro i hi
  apply BitVec.eq_of_getLsbD_eq
  intro j hj
  exact h ⟨j, hj⟩ ⟨i, hi⟩

/-- Drawing a list of distinct pixels: each listed pixel is flipped, no other changes, and the collision flag
is raised exactly when a listed pixel was lit (R189, R190). -/
theorem drawPixels_spec (l : List (Col × Row)) (hl : l.Nodup) (f : Vector (BitVec 64) 32) (hit : Bool) :
    (∀ x y, pixel (drawPixels f hit l).1 x y = (pixel f x y ^^ decide ((x, y) ∈ l))) ∧
    (drawPixels f hit l).2 = (hit || l.any fun p => pixel f p.1 p.2) := by
  induction l generalizing f hit with
  | nil => simp [drawPixels]
  | cons p rest ih =>
    obtain ⟨px, py⟩ := p
    rw [List.nodup_cons] at hl
    obtain ⟨hpix, hflag⟩ := ih hl.2 (toggle f px py) (hit || pixel f px py)
    constructor
    · intro x y
      simp only [drawPixels, hpix, pixel_toggle]
      by_cases h : x = px ∧ y = py
      · obtain ⟨rfl, rfl⟩ := h
        simp [hl.1]
      · have h' : ¬ (x, y) = (px, py) := by simpa using h
        simp [h]
    · simp only [drawPixels, hflag, List.any_cons, Bool.or_assoc]
      have same : ∀ q ∈ rest, pixel (toggle f px py) q.1 q.2 = pixel f q.1 q.2 := by
        intro q hq
        have : ¬ (q.1 = px ∧ q.2 = py) := by
          rintro ⟨rfl, rfl⟩
          exact hl.1 hq
        simp [pixel_toggle, this]
      rw [Bool.eq_iff_iff]
      simp only [Bool.or_eq_true, List.any_eq_true]
      constructor
      · rintro (h | h | ⟨q, hq, h⟩)
        · exact Or.inl h
        · exact Or.inr (Or.inl h)
        · exact Or.inr (Or.inr ⟨q, hq, same q hq ▸ h⟩)
      · rintro (h | h | ⟨q, hq, h⟩)
        · exact Or.inl h
        · exact Or.inr (Or.inl h)
        · exact Or.inr (Or.inr ⟨q, hq, (same q hq).symm ▸ h⟩)

end Sys2Proof.Machine
end

