-- ==== Sys2Proof/Laws/Display.lean ====
section
/-! SUPPORT. The pixels a sprite reaches: which they are, and that none comes twice (spec/44_display.md R189,
corner case (d)). With `drawPixels_spec` of Laws/Ops.lean this is everything the draw algorithm does. -/

namespace Sys2Proof.Machine

/-- Where a set sprite bit goes: dropped outside the screen under clip-on-draw, wrapped without it (R189). -/
theorem targetPixel_eq_some {clip : Bool} {px py : Nat} {x : Col} {y : Row} :
    targetPixel clip px py = some (x, y) ↔
      if clip then px = x.val ∧ py = y.val else px % 64 = x.val ∧ py % 32 = y.val := by
  have hx := x.isLt
  have hy := y.isLt
  unfold targetPixel
  cases clip <;> by_cases h : px < 64 ∧ py < 32 <;> simp [h, Fin.ext_iff] <;> omega

/-- Two bits at different offsets of one sprite never reach the same pixel (R189 (d)). -/
theorem targetPixel_inj {clip : Bool} {ox py c c' r r' : Nat} {p : Col × Row} (hc : c < 8) (hc' : c' < 8)
    (hr : r < 32) (hr' : r' < 32) (h : targetPixel clip (ox + c) (py + r) = some p)
    (h' : targetPixel clip (ox + c') (py + r') = some p) : c = c' ∧ r = r' := by
  obtain ⟨x, y⟩ := p
  rw [targetPixel_eq_some] at h h'
  cases clip <;> simp at h h' <;> omega

theorem mem_rowPixels {clip : Bool} {ox py : Nat} {b : Byte} {p : Col × Row} :
    p ∈ rowPixels clip ox py b ↔
      ∃ col, col < 8 ∧ spriteBit b col = true ∧ targetPixel clip (ox + col) py = some p := by
  simp only [rowPixels, List.mem_filterMap, Option.ite_none_right_eq_some]
  constructor
  · rintro ⟨col, hcol, hb, ht⟩
    refine ⟨col, ?_, hb, ht⟩
    simp only [List.mem_cons, List.not_mem_nil, or_false] at hcol
    omega
  · rintro ⟨col, hcol, hb, ht⟩
    refine ⟨col, ?_, hb, ht⟩
    simp only [List.mem_cons, List.not_mem_nil, or_false]
    omega

/-- The pixels of a sprite are the targets of its set bits (R189, R192). -/
theorem mem_spritePixels {clip : Bool} {ox py : Nat} {rows : List Byte} {p : Col × Row} :
    p ∈ spritePixels clip ox py rows ↔
      ∃ row col, row < rows.length ∧ col < 8 ∧ spriteBit (rows.getD row 0x00#8) col = true ∧
        targetPixel clip (ox + col) (py + row) = some p := by
  induction rows generalizing py with
  | nil => simp [spritePixels]
  | cons b rest ih =>
    rw [spritePixels, List.mem_append, mem_rowPixels, ih]
    constructor
    · rintro (⟨col, hc, hb, ht⟩ | ⟨row, col, hr, hc, hb, ht⟩)
      · exact ⟨0, col, by simp, hc, by simpa using hb, ht⟩
      · refine ⟨row + 1, col, by simpa using hr, hc, by simpa using hb, ?_⟩
        rw [← ht, show py + (row + 1) = py + 1 + row by omega]
    · rintro ⟨row, col, hr, hc, hb, ht⟩
      cases row with
      | zero => exact Or.inl ⟨col, hc, by simpa using hb, ht⟩
      | succ row =>
        refine Or.inr ⟨row, col, by simpa using hr, hc, by simpa using hb, ?_⟩
        rw [← ht, show py + (row + 1) = py + 1 + row by omega]

theorem nodup_rowPixels (clip : Bool) (ox py : Nat) (b : Byte) : (rowPixels clip ox py b).Nodup := by
  unfold rowPixels
  have distinct : ([0, 1, 2, 3, 4, 5, 6, 7] : List Nat).Pairwise fun c c' => c ≠ c' ∧ c < 8 ∧ c' < 8 := by
    decide
  refine List.Pairwise.filterMap _ ?_ distinct
  intro c c' ⟨hne, hc, hc'⟩ p hp p' hp' heq
  subst heq
  simp only [Option.ite_none_right_eq_some] at hp hp'
  exact hne (targetPixel_inj (r := 0) (r' := 0) hc hc' (by omega) (by omega) hp.2 hp'.2).1

/-- No pixel comes twice in a sprite of at most 32 rows: "Within one `DRW` no pixel is toggled twice" (R189 (d)). -/
theorem nodup_spritePixels (clip : Bool) (ox py : Nat) (rows : List Byte) (h : rows.length ≤ 32) :
    (spritePixels clip ox py rows).Nodup := by
  induction rows generalizing py with
  | nil => simp [spritePixels]
  | cons b rest ih =>
    simp only [List.length_cons] at h
    rw [spritePixels, List.nodup_append]
    refine ⟨nodup_rowPixels clip ox py b, ih (py + 1) (by omega), ?_⟩
    intro p hp q hq heq
    subst heq
    obtain ⟨c, hc, -, ht⟩ := mem_rowPixels.mp hp
    obtain ⟨r, c', hr, hc', -, ht'⟩ := mem_spritePixels.mp hq
    have := targetPixel_inj (clip := clip) (ox := ox) (py := py) (r := 0) (r' := r + 1) hc hc' (by omega)
      (by omega) ht (by rw [show py + (r + 1) = py + 1 + r by omega]; exact ht')
    omega

end Sys2Proof.Machine
end

