-- ==== Sys2Proof/Laws/Encoding.lean ====
section
/-! SUPPORT. The fields of a word built in one of the formats of spec/30_encoding.md R72: cutting a field
(R71) gives back what the format was given. -/

namespace Sys2Proof

theorem getLsbD_formatA (op : Nibble) (nnn : Addr) (j : Nat) :
    (formatA op nnn).getLsbD j = if j < 12 then nnn.getLsbD j else op.getLsbD (j - 12) := by
  show BitVec.getLsbD (op ++ nnn) j = _
  rw [BitVec.getLsbD_append]

theorem getLsbD_formatXK (op : Nibble) (x : RegIdx) (nn : Byte) (j : Nat) :
    (formatXK op x nn).getLsbD j =
      if j < 8 then nn.getLsbD j else if j - 8 < 4 then x.getLsbD (j - 8) else op.getLsbD (j - 8 - 4) := by
  show BitVec.getLsbD (op ++ x ++ nn) j = _
  rw [BitVec.getLsbD_append, BitVec.getLsbD_append]

theorem getLsbD_formatXYN (op : Nibble) (x y : RegIdx) (n : Nibble) (j : Nat) :
    (formatXYN op x y n).getLsbD j =
      if j < 4 then n.getLsbD j
      else if j - 4 < 4 then y.getLsbD (j - 4)
      else if j - 4 - 4 < 4 then x.getLsbD (j - 4 - 4) else op.getLsbD (j - 4 - 4 - 4) := by
  show BitVec.getLsbD (op ++ x ++ y ++ n) j = _
  rw [BitVec.getLsbD_append, BitVec.getLsbD_append, BitVec.getLsbD_append]

theorem getLsbD_wordOfBytes (hi lo : Byte) (j : Nat) :
    (wordOfBytes hi lo).getLsbD j = if j < 8 then lo.getLsbD j else hi.getLsbD (j - 8) := by
  show BitVec.getLsbD (hi ++ lo) j = _
  rw [BitVec.getLsbD_append]

section fields
variable (op : Nibble) (x y : RegIdx) (n : Nibble) (nn : Byte) (nnn : Addr)

@[simp] theorem fieldOp_formatA : fieldOp (formatA op nnn) = op := by
  apply BitVec.eq_of_getLsbD_eq
  intro j hj
  simp only [fieldOp, BitVec.getLsbD_extractLsb', getLsbD_formatA, hj, decide_true, Bool.true_and]
  rw [if_neg (by omega), show 12 + j - 12 = j by omega]

@[simp] theorem fieldNNN_formatA : fieldNNN (formatA op nnn) = nnn := by
  apply BitVec.eq_of_getLsbD_eq
  intro j hj
  simp only [fieldNNN, BitVec.getLsbD_extractLsb', getLsbD_formatA, hj, decide_true, Bool.true_and]
  rw [if_pos (by omega), Nat.zero_add]

@[simp] theorem fieldOp_formatXK : fieldOp (formatXK op x nn) = op := by
  apply BitVec.eq_of_getLsbD_eq
  intro j hj
  simp only [fieldOp, BitVec.getLsbD_extractLsb', getLsbD_formatXK, hj, decide_true, Bool.true_and]
  rw [if_neg (by omega), if_neg (by omega), show 12 + j - 8 - 4 = j by omega]

@[simp] theorem fieldX_formatXK : fieldX (formatXK op x nn) = x := by
  apply BitVec.eq_of_getLsbD_eq
  intro j hj
  simp only [fieldX, BitVec.getLsbD_extractLsb', getLsbD_formatXK, hj, decide_true, Bool.true_and]
  rw [if_neg (by omega), if_pos (by omega), show 8 + j - 8 = j by omega]

@[simp] theorem fieldNN_formatXK : fieldNN (formatXK op x nn) = nn := by
  apply BitVec.eq_of_getLsbD_eq
  intro j hj
  simp only [fieldNN, BitVec.getLsbD_extractLsb', getLsbD_formatXK, hj, decide_true, Bool.true_and]
  rw [if_pos (by omega), Nat.zero_add]

/-- The low nibble of a word in format XK is the low nibble of its byte. -/
@[simp] theorem fieldN_formatXK : fieldN (formatXK op x nn) = nn.extractLsb' 0 4 := by
  apply BitVec.eq_of_getLsbD_eq
  intro j hj
  simp only [fieldN, BitVec.getLsbD_extractLsb', getLsbD_formatXK, hj, decide_true, Bool.true_and]
  rw [if_pos (by omega)]

@[simp] theorem fieldOp_formatXYN : fieldOp (formatXYN op x y n) = op := by
  apply BitVec.eq_of_getLsbD_eq
  intro j hj
  simp only [fieldOp, BitVec.getLsbD_extractLsb', getLsbD_formatXYN, hj, decide_true, Bool.true_and]
  rw [if_neg (by omega), if_neg (by omega), if_neg (by omega), show 12 + j - 4 - 4 - 4 = j by omega]

@[simp] theorem fieldX_formatXYN : fieldX (formatXYN op x y n) = x := by
  apply BitVec.eq_of_getLsbD_eq
  intro j hj
  simp only [fieldX, BitVec.getLsbD_extractLsb', getLsbD_formatXYN, hj, decide_true, Bool.true_and]
  rw [if_neg (by omega), if_neg (by omega), if_pos (by omega), show 8 + j - 4 - 4 = j by omega]

@[simp] theorem fieldY_formatXYN : fieldY (formatXYN op x y n) = y := by
  apply BitVec.eq_of_getLsbD_eq
  intro j hj
  simp only [fieldY, BitVec.getLsbD_extractLsb', getLsbD_formatXYN, hj, decide_true, Bool.true_and]
  rw [if_neg (by omega), if_pos (by omega), show 4 + j - 4 = j by omega]

@[simp] theorem fieldN_formatXYN : fieldN (formatXYN op x y n) = n := by
  apply BitVec.eq_of_getLsbD_eq
  intro j hj
  simp only [fieldN, BitVec.getLsbD_extractLsb', getLsbD_formatXYN, hj, decide_true, Bool.true_and]
  rw [if_pos (by omega), Nat.zero_add]

end fields

/-! ## The fields a mask keeps -/

/-- A field of a masked word is the masked field. -/
theorem extract_and (w m : Word) (start len : Nat) :
    (w &&& m).extractLsb' start len = w.extractLsb' start len &&& m.extractLsb' start len := by
  apply BitVec.eq_of_getLsbD_eq
  intro j hj
  simp [hj]

/-- The field `op` of a word whose masked bits are known, for every mask that keeps `op`. -/
theorem fieldOp_of_mask {w m v : Word} (hm : m.extractLsb' 12 4 = 0xF#4) (h : w &&& m = v) :
    fieldOp w = fieldOp v := by
  subst h
  rw [fieldOp, fieldOp, extract_and, hm]
  exact (BitVec.and_allOnes (x := w.extractLsb' 12 4)).symm

/-- The field `n` of a word whose masked bits are known, for every mask that keeps `n`. -/
theorem fieldN_of_mask {w m v : Word} (hm : m.extractLsb' 0 4 = 0xF#4) (h : w &&& m = v) :
    fieldN w = fieldN v := by
  subst h
  rw [fieldN, fieldN, extract_and, hm]
  exact (BitVec.and_allOnes (x := w.extractLsb' 0 4)).symm

/-- The field `nn` of a word whose masked bits are known, for every mask that keeps `nn`. -/
theorem fieldNN_of_mask {w m v : Word} (hm : m.extractLsb' 0 8 = 0xFF#8) (h : w &&& m = v) :
    fieldNN w = fieldNN v := by
  subst h
  rw [fieldNN, fieldNN, extract_and, hm]
  exact (BitVec.and_allOnes (x := w.extractLsb' 0 8)).symm

/-- A word is its two bytes, the high one first (R53). -/
@[simp] theorem wordOfBytes_bytes (w : Word) : wordOfBytes (highByte w) (lowByte w) = w := by
  apply BitVec.eq_of_getLsbD_eq
  intro j hj
  simp only [getLsbD_wordOfBytes, highByte, lowByte, BitVec.getLsbD_extractLsb']
  by_cases h : j < 8
  · simp [h]
  · have : j - 8 < 8 := by omega
    simp [h, this, show 8 + (j - 8) = j by omega]

@[simp] theorem highByte_wordOfBytes (hi lo : Byte) : highByte (wordOfBytes hi lo) = hi := by
  apply BitVec.eq_of_getLsbD_eq
  intro j hj
  simp only [highByte, BitVec.getLsbD_extractLsb', getLsbD_wordOfBytes, hj, decide_true, Bool.true_and]
  rw [if_neg (by omega), show 8 + j - 8 = j by omega]

@[simp] theorem lowByte_wordOfBytes (hi lo : Byte) : lowByte (wordOfBytes hi lo) = lo := by
  apply BitVec.eq_of_getLsbD_eq
  intro j hj
  simp only [lowByte, BitVec.getLsbD_extractLsb', getLsbD_wordOfBytes, hj, decide_true, Bool.true_and]
  rw [if_pos (by omega), Nat.zero_add]

end Sys2Proof
end

