-- ==== Sys2Proof/Laws/PerInstr.lean ====
section
/-! SUPPORT. Statements about every instruction as syntax, one lemma per constructor. The family
`CanonicalWord`: the encoder's word carries the selecting bits that spec/opcode_table.json gives the row, so
it lies in that row's part of the opcode map (spec/30_encoding.md R74, R76). -/

namespace Sys2Proof.Laws

/-- The selecting bits of the encoded word are the table's. -/
def CanonicalWord.Statement (i : Instr) : Prop := encode i &&& selectMask i = selectMatch i

/-- Two words agree when their sixteen bits do. -/
theorem word_eq_of_bits {a b : Word}
    (h : ∀ j ∈ [0, 1, 2, 3, 4, 5, 6, 7, 8, 9, 10, 11, 12, 13, 14, 15], a.getLsbD j = b.getLsbD j) :
    a = b := by
  apply BitVec.eq_of_getLsbD_eq
  intro j hj
  exact h j (by simp only [List.mem_cons, List.not_mem_nil]; omega)

theorem CanonicalWord.cls : CanonicalWord.Statement .cls := rfl
theorem CanonicalWord.ret : CanonicalWord.Statement (.ret) := rfl
theorem CanonicalWord.jp (nnn : Addr) : CanonicalWord.Statement (.jp nnn) := by
  apply word_eq_of_bits
  simp [encode, selectMask, selectMatch, getLsbD_formatA]
theorem CanonicalWord.call (nnn : Addr) : CanonicalWord.Statement (.call nnn) := by
  apply word_eq_of_bits
  simp [encode, selectMask, selectMatch, getLsbD_formatA]
theorem CanonicalWord.seImm (x : RegIdx) (nn : Byte) : CanonicalWord.Statement (.seImm x nn) := by
  apply word_eq_of_bits
  simp [encode, selectMask, selectMatch, getLsbD_formatXK]
theorem CanonicalWord.sneImm (x : RegIdx) (nn : Byte) : CanonicalWord.Statement (.sneImm x nn) := by
  apply word_eq_of_bits
  simp [encode, selectMask, selectMatch, getLsbD_formatXK]
theorem CanonicalWord.seReg (x : RegIdx) (y : RegIdx) : CanonicalWord.Statement (.seReg x y) := by
  apply word_eq_of_bits
  simp [encode, selectMask, selectMatch, getLsbD_formatXYN]
theorem CanonicalWord.sneReg (x : RegIdx) (y : RegIdx) : CanonicalWord.Statement (.sneReg x y) := by
  apply word_eq_of_bits
  simp [encode, selectMask, selectMatch, getLsbD_formatXYN]
theorem CanonicalWord.ldImm (x : RegIdx) (nn : Byte) : CanonicalWord.Statement (.ldImm x nn) := by
  apply word_eq_of_bits
  simp [encode, selectMask, selectMatch, getLsbD_formatXK]
theorem CanonicalWord.addImm (x : RegIdx) (nn : Byte) : CanonicalWord.Statement (.addImm x nn) := by
  apply word_eq_of_bits
  simp [encode, selectMask, selectMatch, getLsbD_formatXK]
theorem CanonicalWord.ldReg (x : RegIdx) (y : RegIdx) : CanonicalWord.Statement (.ldReg x y) := by
  apply word_eq_of_bits
  simp [encode, selectMask, selectMatch, getLsbD_formatXYN]
theorem CanonicalWord.orReg (x : RegIdx) (y : RegIdx) : CanonicalWord.Statement (.orReg x y) := by
  apply word_eq_of_bits
  simp [encode, selectMask, selectMatch, getLsbD_formatXYN]
theorem CanonicalWord.andReg (x : RegIdx) (y : RegIdx) : CanonicalWord.Statement (.andReg x y) := by
  apply word_eq_of_bits
  simp [encode, selectMask, selectMatch, getLsbD_formatXYN]
theorem CanonicalWord.xorReg (x : RegIdx) (y : RegIdx) : CanonicalWord.Statement (.xorReg x y) := by
  apply word_eq_of_bits
  simp [encode, selectMask, selectMatch, getLsbD_formatXYN]
theorem CanonicalWord.addReg (x : RegIdx) (y : RegIdx) : CanonicalWord.Statement (.addReg x y) := by
  apply word_eq_of_bits
  simp [encode, selectMask, selectMatch, getLsbD_formatXYN]
theorem CanonicalWord.sub (x : RegIdx) (y : RegIdx) : CanonicalWord.Statement (.sub x y) := by
  apply word_eq_of_bits
  simp [encode, selectMask, selectMatch, getLsbD_formatXYN]
theorem CanonicalWord.subn (x : RegIdx) (y : RegIdx) : CanonicalWord.Statement (.subn x y) := by
  apply word_eq_of_bits
  simp [encode, selectMask, selectMatch, getLsbD_formatXYN]
theorem CanonicalWord.shr (x : RegIdx) (y : RegIdx) : CanonicalWord.Statement (.shr x y) := by
  apply word_eq_of_bits
  simp [encode, selectMask, selectMatch, getLsbD_formatXYN]
theorem CanonicalWord.shl (x : RegIdx) (y : RegIdx) : CanonicalWord.Statement (.shl x y) := by
  apply word_eq_of_bits
  simp [encode, selectMask, selectMatch, getLsbD_formatXYN]
theorem CanonicalWord.ldI (nnn : Addr) : CanonicalWord.Statement (.ldI nnn) := by
  apply word_eq_of_bits
  simp [encode, selectMask, selectMatch, getLsbD_formatA]
theorem CanonicalWord.jpV0 (nnn : Addr) : CanonicalWord.Statement (.jpV0 nnn) := by
  apply word_eq_of_bits
  simp [encode, selectMask, selectMatch, getLsbD_formatA]
theorem CanonicalWord.rnd (x : RegIdx) (nn : Byte) : CanonicalWord.Statement (.rnd x nn) := by
  apply word_eq_of_bits
  simp [encode, selectMask, selectMatch, getLsbD_formatXK]
theorem CanonicalWord.drw (x : RegIdx) (y : RegIdx) (n : Nibble) : CanonicalWord.Statement (.drw x y n) := by
  apply word_eq_of_bits
  simp [encode, selectMask, selectMatch, getLsbD_formatXYN]
theorem CanonicalWord.skp (x : RegIdx) : CanonicalWord.Statement (.skp x) := by
  apply word_eq_of_bits
  simp [encode, selectMask, selectMatch, getLsbD_formatXK]
theorem CanonicalWord.sknp (x : RegIdx) : CanonicalWord.Statement (.sknp x) := by
  apply word_eq_of_bits
  simp [encode, selectMask, selectMatch, getLsbD_formatXK]
theorem CanonicalWord.ldVxDT (x : RegIdx) : CanonicalWord.Statement (.ldVxDT x) := by
  apply word_eq_of_bits
  simp [encode, selectMask, selectMatch, getLsbD_formatXK]
theorem CanonicalWord.ldVxK (x : RegIdx) : CanonicalWord.Statement (.ldVxK x) := by
  apply word_eq_of_bits
  simp [encode, selectMask, selectMatch, getLsbD_formatXK]
theorem CanonicalWord.ldDTVx (x : RegIdx) : CanonicalWord.Statement (.ldDTVx x) := by
  apply word_eq_of_bits
  simp [encode, selectMask, selectMatch, getLsbD_formatXK]
theorem CanonicalWord.ldSTVx (x : RegIdx) : CanonicalWord.Statement (.ldSTVx x) := by
  apply word_eq_of_bits
  simp [encode, selectMask, selectMatch, getLsbD_formatXK]
theorem CanonicalWord.addI (x : RegIdx) : CanonicalWord.Statement (.addI x) := by
  apply word_eq_of_bits
  simp [encode, selectMask, selectMatch, getLsbD_formatXK]
theorem CanonicalWord.ldF (x : RegIdx) : CanonicalWord.Statement (.ldF x) := by
  apply word_eq_of_bits
  simp [encode, selectMask, selectMatch, getLsbD_formatXK]
theorem CanonicalWord.ldB (x : RegIdx) : CanonicalWord.Statement (.ldB x) := by
  apply word_eq_of_bits
  simp [encode, selectMask, selectMatch, getLsbD_formatXK]
theorem CanonicalWord.storeRegs (x : RegIdx) : CanonicalWord.Statement (.storeRegs x) := by
  apply word_eq_of_bits
  simp [encode, selectMask, selectMatch, getLsbD_formatXK]
theorem CanonicalWord.loadRegs (x : RegIdx) : CanonicalWord.Statement (.loadRegs x) := by
  apply word_eq_of_bits
  simp [encode, selectMask, selectMatch, getLsbD_formatXK]

end Sys2Proof.Laws
end

