-- ==== Sys2Proof/Laws/Step.lean ====
section
/-! SUPPORT. What one step can do: the inversion of `CYCLE` into the cases of R100, and of a step into the
event the host issues. Later proofs cite these instead of unfolding `cycle` and `step`. -/

namespace Sys2Proof.Machine

/-- Everything a `CYCLE` can answer (R100). -/
theorem cycle_cases (s : State) :
    (s.fault ≠ none ∧ cycle s = .next s) ∨
    (s.fault = none ∧ s.gateClosed = true ∧ cycle s = .next s) ∨
    (s.fault = none ∧ s.gateClosed = false ∧ s.fetch = none ∧
      cycle s = .next (s.raise (.fetchBounds s.pc))) ∨
    (∃ w, s.fault = none ∧ s.gateClosed = false ∧ s.fetch = some w ∧ decodeWord w = .unknown w ∧
      cycle s = .next s) ∨
    (∃ w i, s.fault = none ∧ s.gateClosed = false ∧ s.fetch = some w ∧ decodeWord w = .instr i ∧
      cycle s = exec i s) := by
  have unknown_self : ∀ w op, decodeWord w = .unknown op → op = w := by
    intro w op h
    unfold decodeWord decode0 decode8 decodeE decodeF at h
    repeat' split at h
    all_goals first
      | exact Decoded.noConfusion h
      | exact (Decoded.unknown.inj h).symm
  cases hf : s.fault with
  | some f => exact Or.inl ⟨by simp, by simp [cycle, hf]⟩
  | none =>
    refine Or.inr ?_
    cases hg : s.gateClosed with
    | true => exact Or.inl ⟨rfl, rfl, by simp [cycle, hf, hg]⟩
    | false =>
      refine Or.inr ?_
      cases hw : s.fetch with
      | none => exact Or.inl ⟨rfl, rfl, rfl, by simp [cycle, hf, hg, hw]⟩
      | some w =>
        refine Or.inr ?_
        cases hd : decodeWord w with
        | unknown op =>
          have := unknown_self w op hd
          subst this
          exact Or.inl ⟨op, rfl, rfl, rfl, hd, by simp [cycle, hf, hg, hw, hd]⟩
        | instr i => exact Or.inr ⟨w, i, rfl, rfl, rfl, hd, by simp [cycle, hf, hg, hw, hd]⟩

/-- With an empty script a step is a `CYCLE` (log entry 3). -/
theorem step_of_empty_script {s : State} (h : s.script = []) : step s = cycle s := by
  have : s.takeEvent = s := by
    cases s
    simp_all [State.takeEvent, State.setScript]
  simp [step, State.nextEvent, h, applyEvent, this]

/-- With a scripted event first, a step is that event on the rest of the script. -/
theorem step_of_script {s : State} {e : Event} {es : List Event} (h : s.script = e :: es) :
    step s = applyEvent e (s.setScript es) := by
  simp [step, State.nextEvent, State.takeEvent, h]

/-- `State.reset` is ready to fetch as it stands: placing a word there changes memory only. -/
theorem reset_readyToFetch : State.reset.readyToFetch = State.reset := rfl

end Sys2Proof.Machine
end

