-- ==== Sys2Proof/Tests/Slice0.lean ====
section
/-! SUPPORT. The model's own tests. Expected results are the spec's vectors (spec/95_test_vectors.md, named in
each comment), never the model's own answers. A test places one word at 0x200 of the reset state and runs one
step, or applies a few events. The witnesses at the end show, for each statement with hypotheses, a state and
operands that meet them. -/

namespace Sys2Proof.Tests

open Sys2Proof.Machine

/-- The reset state with a word at 0x200. -/
def loaded (w : Nat) : State := State.reset.withFetchWord 16 w

/-- What one step leaves, seen through `f`. -/
def see {α : Type} (s : State) (f : State → α) : Option α :=
  match step s with
  | .next t => some (f t)
  | .fault _ => none
  | .refused _ => none

/-- What a list of events leaves, seen through `f`. -/
def seeEvents {α : Type} (es : List Event) (s : State) (f : State → α) : Option α :=
  match applyEvents es s with
  | .next t => some (f t)
  | .fault _ => none
  | .refused _ => none

/-- The bytes of memory from `a` up. -/
def bytesAt (t : State) (a n : Nat) : List Byte := memBytes t.mem a n

/-! ## Well-formedness: each check refuses an ill-formed operand (R71) -/

theorem test_wf_refuses_x : Operand.fits ⟨.x, 16⟩ = false := by decide
theorem test_wf_refuses_y : Operand.fits ⟨.y, 16⟩ = false := by decide
theorem test_wf_refuses_n : Operand.fits ⟨.n, 16⟩ = false := by decide
theorem test_wf_refuses_nn : Operand.fits ⟨.nn, 256⟩ = false := by decide
theorem test_wf_refuses_nnn : Operand.fits ⟨.nnn, 4096⟩ = false := by decide
theorem test_wf_accepts_largest : WellFormed (.drw 0xF#4 0xF#4 0xF#4) = true := by decide

/-! ## Decoding: words written out from R74 (vectors T-DEC-*) -/

/-- T-DEC-01 to T-DEC-04: the `op = 0` family and its aliases. -/
theorem test_decode_family0 :
    [0x00E0#16, 0x0000#16, 0x0AB0#16, 0x00EE#16, 0x0ABE#16].map decodeWord =
      [.instr .cls, .instr .cls, .instr .cls, .instr .ret, .instr .ret] := by decide

/-- T-DEC-06 to T-DEC-13, T-DEC-16 to T-DEC-21. -/
theorem test_decode_by_op :
    [0x1ABC#16, 0x2ABC#16, 0x3A7F#16, 0x4A7F#16, 0x5AB0#16, 0x5AB7#16, 0x6A7F#16, 0x7A7F#16, 0x9AB0#16,
      0x9ABF#16, 0xAABC#16, 0xBABC#16, 0xCA7F#16, 0xDAB5#16].map decodeWord =
      [.instr (.jp 0xABC#12), .instr (.call 0xABC#12), .instr (.seImm 0xA#4 0x7F#8),
        .instr (.sneImm 0xA#4 0x7F#8), .instr (.seReg 0xA#4 0xB#4), .instr (.seReg 0xA#4 0xB#4),
        .instr (.ldImm 0xA#4 0x7F#8), .instr (.addImm 0xA#4 0x7F#8), .instr (.sneReg 0xA#4 0xB#4),
        .instr (.sneReg 0xA#4 0xB#4), .instr (.ldI 0xABC#12), .instr (.jpV0 0xABC#12),
        .instr (.rnd 0xA#4 0x7F#8), .instr (.drw 0xA#4 0xB#4 0x5#4)] := by decide

/-- T-DEC-14. -/
theorem test_decode_family8 :
    [0x8AB0#16, 0x8AB1#16, 0x8AB2#16, 0x8AB3#16, 0x8AB4#16, 0x8AB5#16, 0x8AB6#16, 0x8AB7#16,
      0x8ABE#16].map decodeWord =
      [.instr (.ldReg 0xA#4 0xB#4), .instr (.orReg 0xA#4 0xB#4), .instr (.andReg 0xA#4 0xB#4),
        .instr (.xorReg 0xA#4 0xB#4), .instr (.addReg 0xA#4 0xB#4), .instr (.sub 0xA#4 0xB#4),
        .instr (.shr 0xA#4 0xB#4), .instr (.subn 0xA#4 0xB#4), .instr (.shl 0xA#4 0xB#4)] := by decide

/-- T-DEC-22 to T-DEC-25: the `op = E` family and its aliases. -/
theorem test_decode_familyE :
    [0xEA9E#16, 0xEAFE#16, 0xEAA1#16, 0xEA01#16].map decodeWord =
      [.instr (.skp 0xA#4), .instr (.skp 0xA#4), .instr (.sknp 0xA#4), .instr (.sknp 0xA#4)] := by decide

/-- T-DEC-27. -/
theorem test_decode_familyF :
    [0xFA07#16, 0xFA0A#16, 0xFA15#16, 0xFA18#16, 0xFA1E#16, 0xFA29#16, 0xFA33#16, 0xFA55#16,
      0xFA65#16].map decodeWord =
      [.instr (.ldVxDT 0xA#4), .instr (.ldVxK 0xA#4), .instr (.ldDTVx 0xA#4), .instr (.ldSTVx 0xA#4),
        .instr (.addI 0xA#4), .instr (.ldF 0xA#4), .instr (.ldB 0xA#4), .instr (.storeRegs 0xA#4),
        .instr (.loadRegs 0xA#4)] := by decide

/-- T-DEC-05, T-DEC-15, T-DEC-26, T-DEC-28: unknown words are rejected by name. -/
theorem test_decode_unknown :
    [0x0001#16, 0x00EF#16, 0x8AB8#16, 0x8ABF#16, 0xEA9F#16, 0xEA00#16, 0xFA00#16, 0xFA85#16].map decodeWord =
      [.unknown 0x0001#16, .unknown 0x00EF#16, .unknown 0x8AB8#16, .unknown 0x8ABF#16, .unknown 0xEA9F#16,
        .unknown 0xEA00#16, .unknown 0xFA00#16, .unknown 0xFA85#16] := by decide

/-- R70: one byte is no instruction. -/
theorem test_decode_truncated : decode [0x60#8] = .truncated [0x60#8] := by decide

/-- R53: the byte at the lower address is the high one. -/
theorem test_decode_big_endian : decodeTableWord 16 0x6012 = some (.ldImm 0x0#4 0x12#8) := by decide

/-- R74: the encoder's word of `SKP VA`. -/
theorem test_encode_canonical : encode (.skp 0xA#4) = 0xEA9E#16 := by decide

/-! ## Control transfer -/

/-- T-CTL-01. -/
theorem test_jp : see (loaded 0x1228) (·.pc) = some 0x0228#16 := by decide

/-- T-CTL-03, at 0x0200. -/
theorem test_call_pushes : see (loaded 0x2210) (fun t => (t.pc, t.sp.val, t.stack[0])) =
    some (0x0210#16, 1, 0x0202#16) := by decide

/-- T-CTL-06. -/
theorem test_call_overflow :
    see { loaded 0x2ABC with sp := 16 } (fun t => (t.pc, t.sp.val, t.fault)) =
      some (0x0200#16, 16, some (.stackOverflow 0x0200#16)) := by decide

/-- T-CTL-04, at 0x0200. -/
theorem test_ret_pops :
    see { loaded 0x00EE with sp := 1, stack := State.reset.stack.set 0 0x0206#16 }
      (fun t => (t.pc, t.sp.val)) = some (0x0206#16, 0) := by decide

/-- T-CTL-07. -/
theorem test_ret_underflow :
    see (loaded 0x00EE) (fun t => (t.pc, t.fault)) =
      some (0x0200#16, some (.stackUnderflow 0x0200#16)) := by decide

/-- T-CTL-08. -/
theorem test_seImm_taken : see ((loaded 0x332A).setReg 0x3#4 0x2A#8) (·.pc) = some 0x0204#16 := by decide
/-- T-CTL-09. -/
theorem test_seImm_not_taken : see ((loaded 0x332A).setReg 0x3#4 0x2B#8) (·.pc) = some 0x0202#16 := by decide
/-- T-CTL-10. -/
theorem test_sneImm_not_taken : see ((loaded 0x432A).setReg 0x3#4 0x2A#8) (·.pc) = some 0x0202#16 := by decide
/-- T-CTL-11. -/
theorem test_sneImm_taken : see (loaded 0x432A) (·.pc) = some 0x0204#16 := by decide

/-- T-CTL-21: an alias of `5120`. -/
theorem test_seReg_alias :
    see (((loaded 0x5127).setReg 0x1#4 7#8).setReg 0x2#4 7#8) (·.pc) = some 0x0204#16 := by decide
/-- T-CTL-13, at 0x0200. -/
theorem test_seReg_not_taken :
    see (((loaded 0x5120).setReg 0x1#4 7#8).setReg 0x2#4 8#8) (·.pc) = some 0x0202#16 := by decide
/-- T-CTL-22: an alias of `9120`. -/
theorem test_sneReg_alias :
    see (((loaded 0x912F).setReg 0x1#4 7#8).setReg 0x2#4 8#8) (·.pc) = some 0x0204#16 := by decide
/-- T-CTL-17: `x = y` never skips. -/
theorem test_sneReg_same : see ((loaded 0x9330).setReg 0x3#4 0x99#8) (·.pc) = some 0x0202#16 := by decide

/-- T-CTL-19: the sum is not reduced to 12 bits. -/
theorem test_jpV0_past_memory :
    see ((loaded 0xBFFF).setReg 0x0#4 0xFF#8) (·.pc) = some 0x10FE#16 := by decide
/-- T-CTL-20: always `V0`, whatever bits 11:8 are. -/
theorem test_jpV0_ignores_x :
    see (((loaded 0xB2FF).setReg 0x0#4 0x01#8).setReg 0x2#4 0x55#8) (·.pc) = some 0x0300#16 := by decide

/-! ## Register and ALU -/

/-- T-ALU-01. -/
theorem test_ldImm : see (loaded 0x6005) (fun t => (t.reg 0x0#4, t.pc)) = some (0x05#8, 0x0202#16) := by decide
/-- T-ALU-03: no carry flag. -/
theorem test_addImm_no_flag :
    see (((loaded 0x7103).setReg 0x1#4 0xFE#8).setReg 0xF#4 0x01#8) (fun t => (t.reg 0x1#4, t.reg 0xF#4)) =
      some (0x01#8, 0x01#8) := by decide
/-- T-ALU-06: `VF` stays. -/
theorem test_ldReg :
    see (((loaded 0x8120).setReg 0x2#4 0x7C#8).setReg 0xF#4 0x01#8) (fun t => (t.reg 0x1#4, t.reg 0xF#4)) =
      some (0x7C#8, 0x01#8) := by decide
/-- T-VF-11: the old `VF` is used before it is cleared. -/
theorem test_or_reads_vf :
    see (((loaded 0x81F1).setReg 0x1#4 0x10#8).setReg 0xF#4 0x01#8) (fun t => (t.reg 0x1#4, t.reg 0xF#4)) =
      some (0x11#8, 0x00#8) := by decide
/-- T-VF-03: the flag is written last. -/
theorem test_or_into_vf :
    see (((loaded 0x8F11).setReg 0x1#4 0xF0#8).setReg 0xF#4 0x01#8) (·.reg 0xF#4) = some 0x00#8 := by decide
/-- T-ALU-08. -/
theorem test_and :
    see ((((loaded 0x8122).setReg 0x1#4 0xF3#8).setReg 0x2#4 0x3C#8).setReg 0xF#4 0x01#8)
      (fun t => (t.reg 0x1#4, t.reg 0xF#4)) = some (0x30#8, 0x00#8) := by decide
/-- T-ALU-09. -/
theorem test_xor :
    see ((((loaded 0x8123).setReg 0x1#4 0xFF#8).setReg 0x2#4 0x0F#8).setReg 0xF#4 0x01#8)
      (fun t => (t.reg 0x1#4, t.reg 0xF#4)) = some (0xF0#8, 0x00#8) := by decide
/-- T-ALU-12. -/
theorem test_addReg_carry :
    see (((loaded 0x8124).setReg 0x1#4 0xFF#8).setReg 0x2#4 0x01#8) (fun t => (t.reg 0x1#4, t.reg 0xF#4)) =
      some (0x00#8, 0x01#8) := by decide
/-- T-VF-01: result 0x10 lost, carry kept. -/
theorem test_addReg_into_vf :
    see (((loaded 0x8F14).setReg 0xF#4 0xF0#8).setReg 0x1#4 0x20#8) (·.reg 0xF#4) = some 0x01#8 := by decide
/-- T-ALU-18: equal operands, no borrow. -/
theorem test_sub_equal :
    see (((loaded 0x8125).setReg 0x1#4 0x33#8).setReg 0x2#4 0x33#8) (fun t => (t.reg 0x1#4, t.reg 0xF#4)) =
      some (0x00#8, 0x01#8) := by decide
/-- T-ALU-19. -/
theorem test_sub_borrow :
    see (((loaded 0x8125).setReg 0x2#4 0x01#8).setReg 0xF#4 0x01#8) (fun t => (t.reg 0x1#4, t.reg 0xF#4)) =
      some (0xFF#8, 0x00#8) := by decide
/-- T-ALU-22. -/
theorem test_subn_borrow :
    see ((((loaded 0x8127).setReg 0x1#4 0x20#8).setReg 0x2#4 0x10#8).setReg 0xF#4 0x01#8)
      (fun t => (t.reg 0x1#4, t.reg 0xF#4)) = some (0xF0#8, 0x00#8) := by decide
/-- T-VF-08. -/
theorem test_subn_into_vf :
    see (((loaded 0x8F17).setReg 0xF#4 0x03#8).setReg 0x1#4 0x05#8) (·.reg 0xF#4) = some 0x01#8 := by decide
/-- T-ALU-24: the source is `Vy`. -/
theorem test_shr_reads_vy :
    see (((loaded 0x8126).setReg 0x1#4 0xAA#8).setReg 0x2#4 0x05#8)
      (fun t => (t.reg 0x1#4, t.reg 0x2#4, t.reg 0xF#4)) = some (0x02#8, 0x05#8, 0x01#8) := by decide
/-- T-VF-06. -/
theorem test_shr_into_vf :
    see (((loaded 0x8F16).setReg 0xF#4 0x09#8).setReg 0x1#4 0x04#8) (·.reg 0xF#4) = some 0x00#8 := by decide
/-- T-ALU-28. -/
theorem test_shl_reads_vy :
    see (((loaded 0x812E).setReg 0x1#4 0xAA#8).setReg 0x2#4 0x81#8)
      (fun t => (t.reg 0x1#4, t.reg 0x2#4, t.reg 0xF#4)) = some (0x02#8, 0x81#8, 0x01#8) := by decide
/-- T-VF-07. -/
theorem test_shl_into_vf :
    see ((loaded 0x8F1E).setReg 0x1#4 0x81#8) (·.reg 0xF#4) = some 0x01#8 := by decide
/-- T-ALU-31, the fixed part: `RND` advances `PC` and takes one draw. -/
theorem test_rnd_draws_once : see (loaded 0xC30F) (fun t => (t.pc, t.draws)) = some (0x0202#16, 1) := by decide
/-- T-ALU-32: a zero mask gives 0 whatever is drawn. -/
theorem test_rnd_zero_mask : see ((loaded 0xC300).setReg 0x3#4 0x11#8) (·.reg 0x3#4) = some 0x00#8 := by
  show some (Config.rand8 0 &&& 0x00#8) = some 0x00#8
  simp

/-! ## Index register, loads and stores -/

/-- T-IDX-01. -/
theorem test_ldI : see (loaded 0xA300) (·.i) = some 0x0300#16 := by decide
/-- T-IDX-04: no fault and no flag on passing 0xFFF. -/
theorem test_addI_past_memory :
    see (((loaded 0xF21E).setI 0x0FFF#16).setReg 0x2#4 0x01#8) (fun t => (t.i, t.reg 0xF#4, t.fault)) =
      some (0x1000#16, 0x00#8, none) := by decide
/-- T-IDX-06: wraps at 65536. -/
theorem test_addI_wraps :
    see (((loaded 0xF21E).setI 0xFFF0#16).setReg 0x2#4 0xFF#8) (·.i) = some 0x00EF#16 := by decide
/-- T-IDX-07. -/
theorem test_ldF : see ((loaded 0xF429).setReg 0x4#4 0x0A#8) (·.i) = some 0x0032#16 := by decide
/-- T-IDX-09: no masking. -/
theorem test_ldF_largest : see ((loaded 0xF429).setReg 0x4#4 0xFF#8) (·.i) = some 0x04FB#16 := by decide
/-- T-IDX-16: the last legal `I`. -/
theorem test_ldB_last :
    see (((loaded 0xF033).setI 0x0FFD#16).setReg 0x0#4 0x7B#8) (fun t => (bytesAt t 0xFFD 3, t.i)) =
      some ([1#8, 2#8, 3#8], 0x0FFD#16) := by decide
/-- T-IDX-17. -/
theorem test_ldB_bounds :
    see (((loaded 0xF033).setI 0x0FFE#16).setReg 0x0#4 0x7B#8) (fun t => (bytesAt t 0xFFE 2, t.pc, t.fault)) =
      some ([0#8, 0#8], 0x0200#16, some (.memBounds 0x0FFE#16)) := by decide
/-- T-IDX-19. -/
theorem test_storeRegs :
    see ((((loaded 0xF155).setI 0x0300#16).setReg 0x0#4 0x12#8).setReg 0x1#4 0x0A#8)
      (fun t => (bytesAt t 0x300 3, t.i)) = some ([0x12#8, 0x0A#8, 0x00#8], 0x0302#16) := by decide
/-- T-IDX-21: nothing is stored and `I` stays. -/
theorem test_storeRegs_bounds :
    see ((((loaded 0xF155).setI 0x0FFF#16).setReg 0x0#4 0xAB#8).setReg 0x1#4 0xCD#8)
      (fun t => (bytesAt t 0xFFF 1, t.i, t.fault)) =
      some ([0x00#8], 0x0FFF#16, some (.memBounds 0x0FFF#16)) := by decide
/-- T-IDX-25: the font's first bytes into all sixteen registers. -/
theorem test_loadRegs_font :
    see (loaded 0xFF65) (fun t => (t.v.toList, t.i)) =
      some ([0xF0#8, 0x90#8, 0x90#8, 0x90#8, 0xF0#8, 0x20#8, 0x60#8, 0x20#8, 0x20#8, 0x70#8, 0xF0#8, 0x10#8,
        0xF0#8, 0x80#8, 0xF0#8, 0xF0#8], 0x0010#16) := by decide
/-- T-IDX-27. -/
theorem test_loadRegs_bounds :
    see ((loaded 0xF165).setI 0x0FFF#16) (fun t => (t.i, t.fault)) =
      some (0x0FFF#16, some (.memBounds 0x0FFF#16)) := by decide

/-! ## Display -/

/-- T-DSP-01: the screen is cleared, `VF` and `DRAW_FLAG` stay. -/
theorem test_cls :
    see (((loaded 0x00E0).setFb (toggle clearFb 10 10)).setReg 0xF#4 0x01#8)
      (fun t => (decide (t.fb = clearFb), t.reg 0xF#4, t.drawFlag)) = some (true, 0x01#8, false) := by decide

/-- The start of T-DSP-11 to T-DSP-14: one row of eight bits at (60, 5), and (0, 5) lit. -/
def edgeSprite (clip : Bool) : State :=
  (((({ loaded 0xD121 with clipOnDraw := clip }.setI 0x0300#16).setReg 0x1#4 60#8).setReg 0x2#4 5#8).setFb
    (toggle clearFb 0 5)).setMem (memPut (loaded 0xD121).mem 0x300 0xFF#8)

/-- T-DSP-13: wraps at the right edge, and collides there. -/
theorem test_drw_wraps :
    see (edgeSprite false) (fun t => (t.fb[5], t.reg 0xF#4, t.drawFlag)) =
      some (0xF00000000000000E#64, 0x01#8, true) := by decide
/-- T-DSP-14: a clipped pixel is not toggled and cannot collide. -/
theorem test_drw_clips :
    see (edgeSprite true) (fun t => (t.fb[5], t.reg 0xF#4, t.drawFlag)) =
      some (0xF000000000000001#64, 0x00#8, true) := by decide

/-! ## Keypad and timers -/

/-- T-KEY-01. -/
theorem test_skp_down :
    see (((loaded 0xE59E).setReg 0x5#4 0x0A#8).setKey 10 true) (·.pc) = some 0x0204#16 := by decide
/-- T-KEY-05. -/
theorem test_skp_index :
    see ((loaded 0xE59E).setReg 0x5#4 0x10#8) (fun t => (t.pc, t.fault)) =
      some (0x0200#16, some (.keyIndex 0x10#8)) := by decide
/-- T-KEY-03. -/
theorem test_sknp_up : see ((loaded 0xE5A1).setReg 0x5#4 0x0A#8) (·.pc) = some 0x0204#16 := by decide
/-- T-KEY-06. -/
theorem test_sknp_index :
    see ((loaded 0xE5A1).setReg 0x5#4 0xFF#8) (·.fault) = some (some (.keyIndex 0xFF#8)) := by decide
/-- T-TMR-01. -/
theorem test_ldVxDT :
    see ((loaded 0xF307).setDt 0x3C#8) (fun t => (t.reg 0x3#4, t.dt)) = some (0x3C#8, 0x3C#8) := by decide
/-- T-TMR-02. -/
theorem test_ldDTVx : see ((loaded 0xF315).setReg 0x3#4 0x3C#8) (·.dt) = some 0x3C#8 := by decide
/-- T-TMR-03. -/
theorem test_ldSTVx : see ((loaded 0xF318).setReg 0x3#4 0x05#8) (·.st) = some 0x05#8 := by decide
/-- T-KEY-12: two keys down, the lowest is latched, and `PC` stays. -/
theorem test_ldVxK_latches_lowest :
    see (((loaded 0xF30A).setKey 11 true).setKey 2 true) (fun t => (t.pc, t.wait)) =
      some (0x0200#16, .latched 2) := by decide
/-- T-KEY-10: the whole trace. -/
theorem test_ldVxK_trace :
    seeEvents [.cycle, .cycle, .keyPress 7, .cycle, .cycle, .keyRelease 7, .cycle] (loaded 0xF30A)
      (fun t => (t.pc, t.wait, t.reg 0x3#4)) = some (0x0202#16, .idle, 0x07#8) := by decide

/-! ## The CYCLE step, host events, faults -/

/-- T-CYC-01: an unknown opcode changes no state at all. -/
theorem test_unknown_changes_nothing : see (loaded 0x8128) (fun t => decide (t.pc = 0x200#16 ∧ t.fault = none
    ∧ t.v = State.reset.v ∧ t.draws = 0)) = some true := by decide
/-- T-CYC-01: the diagnostic carries the word. -/
theorem test_unknown_diag : cycleDiag (loaded 0x8128) = some 0x8128#16 := by decide
/-- T-CYC-03. -/
theorem test_fetch_bounds :
    see (State.reset.setPc 0x0FFF#16) (fun t => (t.pc, t.fault)) =
      some (0x0FFF#16, some (.fetchBounds 0x0FFF#16)) := by decide
/-- T-CYC-05: an odd `PC` is fetched from as it stands. -/
theorem test_fetch_odd :
    see ((State.reset.setMem (memPuts [] 0x200 [0x60#8, 0x12#8, 0x34#8, 0x56#8])).setPc 0x0201#16) (·.pc) =
      some 0x0234#16 := by decide
/-- T-CYC-07: the gate, the tick, `END_FRAME`. -/
theorem test_display_wait :
    seeEvents [.cycle, .timerTick, .cycle, .endFrame, .cycle]
      { (loaded 0x6005).setDt 2#8 with displayWait := true, drawFlag := true }
      (fun t => (t.pc, t.reg 0x0#4, t.dt, t.drawFlag)) = some (0x0202#16, 0x05#8, 1#8, false) := by decide
/-- T-CYC-10: nothing moves a stopped core. -/
theorem test_stopped :
    seeEvents [.cycle, .timerTick, .keyPress 3, .endFrame, .loadRom [0xFF#8]]
      (((loaded 0x6005).setDt 5#8).raise (.stackUnderflow 0x0200#16))
      (fun t => (t.reg 0x0#4, t.dt, t.key 3, t.byte 0x200)) = some (0x00#8, 5#8, false, 0x60#8) := by decide
/-- T-CYC-11: `RESET` revives it. -/
theorem test_reset_event :
    seeEvents [.reset] (((loaded 0x6005).setDt 5#8).raise (.stackUnderflow 0x0200#16))
      (fun t => (t.fault, t.pc, t.dt, t.byte 0x200, t.byte 0)) =
      some (none, 0x0200#16, 0#8, 0x00#8, 0xF0#8) := by decide
/-- T-CYC-15: `LOAD_FONT` puts an overwritten font byte back. -/
theorem test_loadFont :
    seeEvents [.loadFont] (State.reset.setMem (memPut [] 0 0x00#8)) (·.mem) = some [] := by
  decide +kernel
/-- T-TMR-05. -/
theorem test_timer_ticks :
    seeEvents [.timerTick, .timerTick, .timerTick] ((State.reset.setDt 5#8).setSt 2#8) (fun t => (t.dt, t.st)) =
      some (2#8, 0#8) := by decide
/-- P1, the source's own program: "yields `V0==8, VF==0, pc==0x206`". -/
theorem test_source_program :
    seeEvents [.loadRom [0x60#8, 0x05#8, 0x61#8, 0x03#8, 0x80#8, 0x14#8], .cycle, .cycle, .cycle] State.reset
      (fun t => (t.reg 0x0#4, t.reg 0xF#4, t.pc)) = some (0x08#8, 0x00#8, 0x0206#16) := by decide
/-- Log entry 3: a scripted event is taken before the next `CYCLE`. -/
theorem test_script :
    see ((loaded 0x6005).setScript [.keyPress 3, .cycle]) (fun t => (t.key 3, t.pc, t.script)) =
      some (true, 0x0200#16, [.cycle]) := by decide

/-! ## Witnesses: every statement's hypotheses are met by a concrete state and operands -/

/-- Words that meet the selecting premises of the decode clauses, boundary words of their rows. -/
theorem witness_selecting_words :
    ((0x0FFE#16 &&& 0xF00F#16 = 0x000E#16 ∧ 0x1FFF#16 &&& 0xF000#16 = 0x1000#16 ∧
      0x2FFF#16 &&& 0xF000#16 = 0x2000#16 ∧ 0x3FFF#16 &&& 0xF000#16 = 0x3000#16 ∧
      0x4FFF#16 &&& 0xF000#16 = 0x4000#16 ∧ 0x5FFF#16 &&& 0xF000#16 = 0x5000#16 ∧
      0x9FFF#16 &&& 0xF000#16 = 0x9000#16 ∧ 0x6FFF#16 &&& 0xF000#16 = 0x6000#16 ∧
      0x7FFF#16 &&& 0xF000#16 = 0x7000#16 ∧ 0x8FF0#16 &&& 0xF00F#16 = 0x8000#16) ∧
     (0x8FF1#16 &&& 0xF00F#16 = 0x8001#16 ∧ 0x8FF2#16 &&& 0xF00F#16 = 0x8002#16 ∧
      0x8FF3#16 &&& 0xF00F#16 = 0x8003#16 ∧ 0x8FF4#16 &&& 0xF00F#16 = 0x8004#16 ∧
      0x8FF5#16 &&& 0xF00F#16 = 0x8005#16 ∧ 0x8FF7#16 &&& 0xF00F#16 = 0x8007#16 ∧
      0x8FF6#16 &&& 0xF00F#16 = 0x8006#16 ∧ 0x8FFE#16 &&& 0xF00F#16 = 0x800E#16 ∧
      0xAFFF#16 &&& 0xF000#16 = 0xA000#16 ∧ 0xBFFF#16 &&& 0xF000#16 = 0xB000#16)) ∧
    ((0xCFFF#16 &&& 0xF000#16 = 0xC000#16 ∧ 0xDFFF#16 &&& 0xF000#16 = 0xD000#16 ∧
      0xEFFE#16 &&& 0xF00F#16 = 0xE00E#16 ∧ 0xEFF1#16 &&& 0xF00F#16 = 0xE001#16 ∧
      0xFF07#16 &&& 0xF0FF#16 = 0xF007#16 ∧ 0xFF0A#16 &&& 0xF0FF#16 = 0xF00A#16 ∧
      0xFF15#16 &&& 0xF0FF#16 = 0xF015#16) ∧
     (0xFF18#16 &&& 0xF0FF#16 = 0xF018#16 ∧
      0xFF1E#16 &&& 0xF0FF#16 = 0xF01E#16 ∧ 0xFF29#16 &&& 0xF0FF#16 = 0xF029#16 ∧
      0xFF33#16 &&& 0xF0FF#16 = 0xF033#16 ∧ 0xFF55#16 &&& 0xF0FF#16 = 0xF055#16 ∧
      0xFF65#16 &&& 0xF0FF#16 = 0xF065#16 ∧ 0x0FF0#16 &&& 0xF00F#16 = 0x0000#16)) := by decide

/-- RetPopsOrUnderflows: both clauses. -/
theorem witness_ret : 0 < ({ State.reset with sp := 1 } : State).sp.val ∧ State.reset.sp.val = 0 := by decide
/-- CallPushesOrOverflows: the sixteenth level, and the seventeenth call. -/
theorem witness_call :
    ({ State.reset with sp := 15 } : State).sp.val < 16 ∧ ({ State.reset with sp := 16 } : State).sp.val = 16 := by
  decide
/-- SkipsOnImmediate, SkipsOnRegisters: equal and different. -/
theorem witness_skips :
    State.reset.reg 0xF#4 = 0x00#8 ∧ State.reset.reg 0xF#4 ≠ 0xFF#8 ∧ State.reset.reg 0x1#4 = State.reset.reg 0x2#4 ∧
      (State.reset.setReg 0x1#4 1#8).reg 0x1#4 ≠ (State.reset.setReg 0x1#4 1#8).reg 0x2#4 := by decide
/-- The flag-writing statements: `x` below 15, and bit numbers below 8. -/
theorem witness_flag_writers : (0xE#4 : RegIdx) ≠ 0xF#4 ∧ 7 < 8 := by decide
/-- BcdStoreWritesThreeDigits: the last legal `I` and the first illegal one. -/
theorem witness_bcd :
    (State.reset.setI 0x0FFD#16).i.toNat + 3 ≤ 4096 ∧ 4096 < (State.reset.setI 0x0FFE#16).i.toNat + 3 := by decide
/-- BlockStoreWritesRegisters, BlockLoadReadsRegisters: all sixteen registers at the edge, one past it, and a
register above `Vx`. -/
theorem witness_block :
    (State.reset.setI 0x0FF0#16).i.toNat + (0xF#4 : RegIdx).toNat + 1 ≤ 4096 ∧
      4096 < (State.reset.setI 0x0FF1#16).i.toNat + (0xF#4 : RegIdx).toNat + 1 ∧
      (0xE#4 : RegIdx).toNat < (0xF#4 : RegIdx).toNat := by decide
/-- DrwFlipsTheCoveredPixels: an empty sprite beyond memory, the last legal `I`, and the first illegal one. -/
theorem witness_drw_bounds :
    ((0x0#4 : Nibble).toNat = 0 ∨ (State.reset.setI 0x1001#16).i.toNat + (0x0#4 : Nibble).toNat ≤ 4096) ∧
      ((0x5#4 : Nibble).toNat = 0 ∨ (State.reset.setI 0x0FFB#16).i.toNat + (0x5#4 : Nibble).toNat ≤ 4096) ∧
      (0 < (0x5#4 : Nibble).toNat ∧ 4096 < (State.reset.setI 0x0FFC#16).i.toNat + (0x5#4 : Nibble).toNat) := by
  decide
/-- DrwFlipsTheCoveredPixels: a covered pixel that is lit, reached by wrapping. -/
theorem witness_drw_covers_wrapped :
    (edgeSprite false).Covers 60#8 5#8 1 0 5 ∧ pixel (edgeSprite false).fb 0 5 = true :=
  ⟨⟨0, 4, by decide, by decide, by decide, by decide⟩, by decide⟩
/-- DrwFlipsTheCoveredPixels: the same pixel is not covered under clip-on-draw. -/
theorem witness_drw_clipped : ¬ (edgeSprite true).Covers 60#8 5#8 1 0 5 := by
  rintro ⟨row, col, -, -, -, h⟩
  have h : (60#8 : Byte).toNat % 64 + col = 0 ∧ _ := h
  simp at h
/-- DrawingTwiceRestoresTheScreen. -/
theorem witness_draw_twice : ∃ t u, exec (.drw 0x1#4 0x2#4 0x1#4) (edgeSprite false) = .next t ∧
    exec (.drw 0x1#4 0x2#4 0x1#4) t = .next u ∧ t.reg 0x1#4 = (edgeSprite false).reg 0x1#4 ∧
    t.reg 0x2#4 = (edgeSprite false).reg 0x2#4 ∧ (edgeSprite false).i.toNat + (0x1#4 : Nibble).toNat ≤ 4096 :=
  ⟨_, _, rfl, rfl, by decide, by decide, by decide⟩
/-- KeySkipsReadTheKeypad: the highest legal key, down and up, and the first illegal number. -/
theorem witness_key_skips :
    ((State.reset.setReg 0x5#4 15#8).reg 0x5#4).toNat < 16 ∧ State.reset.keys[15] = false ∧
      (State.reset.setKey 15 true).keys[15] = true ∧ 15 < ((State.reset.setReg 0x5#4 16#8).reg 0x5#4).toNat := by
  decide
/-- WaitForKeyTransitions: the four cases. -/
theorem witness_wait_for_key :
    (State.reset.wait = .idle ∧ ∀ k : Key, State.reset.key k = false) ∧
      (∀ j : Key, j.val < 15 → (State.reset.setKey 15 true).key j = false) ∧
      (State.reset.setKey 15 true).key 15 = true ∧ (State.reset.setWait (.latched 0)).wait = .latched 0 ∧
      State.reset.key 0 = false ∧ ((State.reset.setWait (.latched 15)).setKey 15 true).key 15 = true := by decide
/-- WaitForKeyCompletesOnRelease. -/
theorem witness_wait_completes :
    (loaded 0xF30A).Executes (.ldVxK 0x3#4) ∧ (loaded 0xF30A).wait = .idle ∧
      ∀ j : Key, (loaded 0xF30A).key j = false :=
  ⟨⟨by decide, by decide, 0xF30A#16, by decide, by decide⟩, by decide, by decide⟩
/-- StepRunsTheDecodedInstruction. -/
theorem witness_step :
    (loaded 0x6005).nextEvent = .cycle ∧ (loaded 0x6005).fault = none ∧
      ¬ ((loaded 0x6005).displayWait = true ∧ (loaded 0x6005).drawFlag = true) ∧
      (loaded 0x6005).pc.toNat ≤ 0xFFE ∧
      decode [(loaded 0x6005).byte 0x200, (loaded 0x6005).byte 0x201] = .instr (.ldImm 0x0#4 0x05#8) [] ∧
      WellFormed (.ldImm 0x0#4 0x05#8) = true ∧ (loaded 0x6005).script = [] :=
  ⟨by decide, by decide, fun h => absurd h.2 (by decide), by decide, by decide, by decide, by decide⟩
/-- UnknownOpcodeChangesNothing. -/
theorem witness_unknown :
    (loaded 0x8128).fault = none ∧ ¬ ((loaded 0x8128).displayWait = true ∧ (loaded 0x8128).drawFlag = true) ∧
      (loaded 0x8128).fetch = some 0x8128#16 ∧ decodeWord 0x8128#16 = .unknown 0x8128#16 :=
  ⟨by decide, fun h => absurd h.2 (by decide), by decide, by decide⟩
/-- StoppedCoreIsFrozen, and the stopped clauses of the host events. -/
theorem witness_stopped : (State.reset.raise (.stackUnderflow 0x0200#16)).fault ≠ none := by decide
/-- ResetGivesTheResetValues: an event that clears a fault. -/
theorem witness_reset : ∃ t, applyEvent .reset (State.reset.raise (.stackUnderflow 0x0200#16)) = .next t ∧
    t.fault = none := ⟨_, rfl, rfl⟩
/-- The running clauses of the host events. -/
theorem witness_running : State.reset.fault = none := by decide
/-- DisplayWaitGatesCycle, ClosedGateHoldsUntilEndFrame: a closed gate; and an open one with the flag raised,
fetching an instruction, and fetching nothing. -/
theorem witness_gate :
    (({ State.reset with displayWait := true, drawFlag := true } : State).gateClosed = true) ∧
      (∀ e ∈ [Event.timerTick, .cycle], e ≠ .endFrame ∧ e ≠ .reset) ∧
      (({ loaded 0x6005 with displayWait := false, drawFlag := true } : State).fetch = some 0x6005#16) ∧
      decodeWord 0x6005#16 = .instr (.ldImm 0x0#4 0x05#8) ∧
      (({ loaded 0x8128 with displayWait := false, drawFlag := true } : State).fetch = some 0x8128#16) ∧
      (({ State.reset with displayWait := false, pc := 0x1000#16 } : State).fetch = none) := by decide
/-- ClosedGateHoldsUntilEndFrame: the events answer a next state. -/
theorem witness_gate_run : ∃ t, applyEvents [.timerTick, .cycle]
    { State.reset with displayWait := true, drawFlag := true } = .next t := ⟨_, rfl⟩
/-- FetchIsBigEndianAndBounded: the first `PC` that faults and the last that does not. -/
theorem witness_fetch :
    0xFFE < (State.reset.setPc 0x0FFF#16).pc.toNat ∧ (State.reset.setPc 0x0FFE#16).pc.toNat ≤ 0xFFE ∧
      (State.reset.setPc 0x0FFF#16).drawFlag = false := by decide
/-- FaultEntryIsPrecise, FaultsAreThoseOfTheTable: each of the six faults is raised from a running core. -/
theorem witness_faults :
    [seeEvents [.cycle] { loaded 0x2ABC with sp := 16 } (·.fault.map Fault.code),
      seeEvents [.cycle] (loaded 0x00EE) (·.fault.map Fault.code),
      seeEvents [.cycle] ((loaded 0xF033).setI 0x0FFE#16) (·.fault.map Fault.code),
      seeEvents [.cycle] (State.reset.setPc 0x0FFF#16) (·.fault.map Fault.code),
      seeEvents [.cycle] ((loaded 0xE59E).setReg 0x5#4 0x10#8) (·.fault.map Fault.code)] =
      [some (some 1), some (some 2), some (some 3), some (some 4), some (some 5)] := by decide
/-- FaultsAreThoseOfTheTable: an oversize ROM, 3585 bytes (T-CYC-13). -/
theorem witness_rom_too_large : ∃ bytes : List Byte, bytes.length = 3585 ∧
    applyEvent (.loadRom bytes) State.reset = .next (State.reset.raise (.romTooLarge 3585)) := by
  have faults : ∀ bytes : List Byte, bytes.length = 3585 →
      applyEvent (.loadRom bytes) State.reset = .next (State.reset.raise (.romTooLarge 3585)) := by
    intro bytes h
    simp [applyEvent, loadRom, State.whenRunning, State.reset, romMax, h]
  exact ⟨List.replicate 3585 0x00#8, List.length_replicate, faults _ List.length_replicate⟩
/-- LoadRomCopiesOrFaults: the longest ROM. -/
theorem witness_rom_longest : ∃ bytes : List Byte, bytes.length = 3584 :=
  ⟨List.replicate 3584 0x00#8, List.length_replicate⟩
/-- InstructionsWriteOnlyTheirParts, NoInstructionReadsTheSoundTimer: an instruction that completes. -/
theorem witness_completes : ∃ t, exec (.ldImm 0x0#4 0x05#8) State.reset = .next t ∧ t.fault = State.reset.fault ∧
    ∀ x, Instr.ldImm 0x0#4 0x05#8 ≠ .ldSTVx x := ⟨_, rfl, by decide, by decide⟩
/-- StoresAreFetchedAtOnce: the last two bytes of memory. -/
theorem witness_store_fetch : ∃ t, exec (.storeRegs 0x1#4) (State.reset.setI 0x0FFE#16) = .next t ∧
    (State.reset.setI 0x0FFE#16).i.toNat + (0x1#4 : RegIdx).toNat + 1 ≤ 4096 ∧
    (0x0#4 : RegIdx).toNat < (0x1#4 : RegIdx).toNat := ⟨_, rfl, by decide, by decide⟩
/-- SettledCoreStaysSettled: `1200` at 0x200. -/
theorem witness_settled : (loaded 0x1200).SettledAt 0x200#12 := ⟨by decide, by decide, by decide⟩
/-- HostInputsCommute: different keys. -/
theorem witness_keys_differ : (0 : Key) ≠ 15 := by decide
/-- MemoryBlocksReadBack: an empty block beyond memory, the last cell, and one past it. -/
theorem witness_memory_blocks :
    (([] : List Byte).length = 0) ∧ (4095 + [0x5A#8].length ≤ 4096) ∧
      (0 < [0x5A#8].length ∧ 4096 < 4096 + [0x5A#8].length) := by decide
/-- CanonicalMemoriesAreUnique: a canonical memory that lists something. -/
theorem witness_canonical : memWf [(0x200, 0x60#8), (0xFFF, 0x01#8)] = true := by decide
/-- DecodeInvertsEncode, EachWordSelectsOneRow. -/
theorem witness_encoding :
    WellFormed (.drw 0xF#4 0xF#4 0xF#4) = true ∧ decodeWord 0xDFFF#16 = .instr (.drw 0xF#4 0xF#4 0xF#4) ∧
      0xDFFF#16 &&& selectMask (.drw 0xF#4 0xF#4 0xF#4) = selectMatch (.drw 0xF#4 0xF#4 0xF#4) := by decide
/-- PlacedWordIsTheNextToRun: the premises of its last clause. -/
theorem witness_placed :
    State.reset.nextEvent = .cycle ∧ State.reset.fault = none ∧ State.reset.gateClosed = false ∧
      State.reset.pc.toNat ≤ 0xFFE := by decide
/-- EveryStepKeepsTheInvariant, WaitingMeansWaitForKeyAtPc, QuirkFlagsNeverChange: the reset state meets both
invariants and steps. -/
theorem witness_invariants : State.reset.Inv ∧ State.reset.WaitInv ∧ State.reset.nextEvent.isLoad = false ∧
    ∃ t, step State.reset = .next t :=
  ⟨⟨rfl, by decide, by intro w hw; simp [State.reset] at hw; simp [hw]⟩, fun h => absurd rfl h, rfl, ⟨_, rfl⟩⟩
/-- WaitingMeansWaitForKeyAtPc: a waiting core meets it too. -/
theorem witness_waiting : ((loaded 0xF30A).setWait (.latched 7)).WaitInv :=
  fun _ => ⟨0xF30A#16, 0x3#4, by decide, by decide⟩

end Sys2Proof.Tests
end

section
/-! PROOFS. The fetch (spec/20_memory.md R53, R57; spec/40_cycle.md R103): the number a fetched word is, and the
`CYCLE` whose fetch leaves memory. -/

namespace Sys2Proof.Machine

/-- Big-endian: the byte at the lower address is the high byte (R53). -/
theorem wordOfBytes_toNat (hi lo : Byte) : (wordOfBytes hi lo).toNat = hi.toNat * 256 + lo.toNat := by
  rw [wordOfBytes, BitVec.toNat_append, ← Nat.shiftLeft_add_eq_or_of_lt lo.isLt, Nat.shiftLeft_eq]

/-- The gate is open unless display-wait is on and a draw is pending (R102). -/
theorem State.gateClosed_eq_false {s : State} :
    s.gateClosed = false ↔ ¬ (s.displayWait = true ∧ s.drawFlag = true) := by
  rw [State.gateClosed, ← Bool.not_eq_true, Bool.and_eq_true, and_comm]

/-- A `CYCLE` that reaches the fetch and finds no word takes `FetchBounds` (R57). -/
theorem cycle_of_fetch_none {s : State} (running : s.fault = none) (gate : s.gateClosed = false)
    (noWord : s.fetch = none) : cycle s = .next (s.raise (.fetchBounds s.pc)) := by
  obtain ⟨stopped, -⟩ | ⟨-, closed, -⟩ | ⟨-, -, -, answer⟩ | ⟨w, -, -, fetched, -⟩ | ⟨w, i, -, -, fetched, -⟩ :=
    cycle_cases s
  · exact absurd running stopped
  · exact absurd (gate.symm.trans closed) Bool.false_ne_true
  · exact answer
  all_goals exact absurd (noWord.symm.trans fetched) (Option.some_ne_none w).symm

/-- Settles O30: above 0xFFE the fetch has no word, and at or below it the word is its two bytes. -/
theorem fetchIsBigEndianAndBounded : Obligations.FetchIsBigEndianAndBounded := by
  intro s
  constructor
  · intro running gate beyond
    exact cycle_of_fetch_none running (State.gateClosed_eq_false.mpr gate) (State.fetch_eq_none.mpr beyond)
  · intro within
    exact ⟨_, State.fetch_eq_some.mpr ⟨within, rfl⟩, wordOfBytes_toNat _ _⟩

end Sys2Proof.Machine
end

section
/-! PROOFS. The `CYCLE` and its diagnostic case by case (spec/40_cycle.md R100 to R105), and the events that
change nothing: any event but `RESET` on a stopped core, and a repeated `CYCLE` behind a closed gate or on an
unknown opcode. -/

namespace Sys2Proof.Machine

/-! ## One equation per case of `CYCLE` -/

/-- The gate is closed when display-wait is on and a draw is pending (R102). -/
theorem State.gateClosed_eq_true {s : State} :
    s.gateClosed = true ↔ s.displayWait = true ∧ s.drawFlag = true := by
  rw [State.gateClosed, Bool.and_eq_true, and_comm]

/-- Without display-wait the gate is open, whatever `DRAW_FLAG` is (R102). -/
theorem State.gateClosed_of_not_displayWait {s : State} (off : s.displayWait = false) :
    s.gateClosed = false := by
  rw [State.gateClosed, off, Bool.and_false]

theorem cycle_of_stopped {s : State} {f : Fault} (stopped : s.fault = some f) : cycle s = .next s := by
  simp [cycle, stopped]

theorem cycleDiag_of_stopped {s : State} {f : Fault} (stopped : s.fault = some f) : cycleDiag s = none := by
  simp [cycleDiag, stopped]

theorem cycle_of_gateClosed {s : State} (running : s.fault = none) (closed : s.gateClosed = true) :
    cycle s = .next s := by
  simp [cycle, running, closed]

theorem cycleDiag_of_gateClosed {s : State} (running : s.fault = none) (closed : s.gateClosed = true) :
    cycleDiag s = none := by
  simp [cycleDiag, running, closed]

/-- An unknown opcode changes no state (R104). -/
theorem cycle_of_unknown {s : State} {w op : Word} (running : s.fault = none) (gate : s.gateClosed = false)
    (fetched : s.fetch = some w) (decoded : decodeWord w = .unknown op) : cycle s = .next s := by
  simp [cycle, running, gate, fetched, decoded]

/-- The diagnostic carries the unknown opcode (R104, decision D18). -/
theorem cycleDiag_of_unknown {s : State} {w op : Word} (running : s.fault = none)
    (gate : s.gateClosed = false) (fetched : s.fetch = some w) (decoded : decodeWord w = .unknown op) :
    cycleDiag s = some op := by
  simp [cycleDiag, running, gate, fetched, decoded]

/-- A `CYCLE` that executes an instruction has that instruction's meaning (R105). -/
theorem cycle_of_executes {s : State} {i : Instr} (executes : s.Executes i) : cycle s = exec i s := by
  obtain ⟨running, gate, w, fetched, decoded⟩ := executes
  simp [cycle, running, gate, fetched, decoded]

/-! ## Events that change nothing -/

/-- An event that answers the same state does so however often it is repeated. -/
theorem applyEvents_replicate_of_fixed {e : Event} {s : State} (fixed : applyEvent e s = .next s) (n : Nat) :
    applyEvents (List.replicate n e) s = .next s := by
  induction n with
  | zero => rfl
  | succ n ih => rw [List.replicate_succ, applyEvents, fixed]; exact ih

/-- A stopped core takes no event but `RESET` (R101, R233). -/
theorem applyEvent_of_stopped {s : State} {f : Fault} (stopped : s.fault = some f) {e : Event}
    (notReset : e ≠ .reset) : applyEvent e s = .next s := by
  cases e with
  | reset => exact absurd rfl notReset
  | cycle => exact cycle_of_stopped stopped
  | snapshot => rfl
  | loadFont | loadRom _ | timerTick | keyPress _ | keyRelease _ | endFrame =>
    exact congrArg Host.Outcome.next (State.whenRunning_stopped _ stopped)

/-- Settles O26: the `CYCLE` on an unknown opcode answers the same state, so every repetition fetches the
same word. -/
theorem unknownOpcodeChangesNothing : Obligations.UnknownOpcodeChangesNothing := by
  intro s w running gateOpen fetched decoded
  have gate := State.gateClosed_eq_false.mpr gateOpen
  have same := cycle_of_unknown running gate fetched decoded
  exact ⟨same, cycleDiag_of_unknown running gate fetched decoded, applyEvents_replicate_of_fixed same⟩

/-- Settles O27: every event but `RESET` tests `FAULT` first, and `RESET` gives it the value `None`. -/
theorem stoppedCoreIsFrozen : Obligations.StoppedCoreIsFrozen := by
  intro s stopped
  obtain ⟨f, stoppedBy⟩ := Option.ne_none_iff_exists'.mp stopped
  exact ⟨fun _ notReset => applyEvent_of_stopped stoppedBy notReset, cycleDiag_of_stopped stoppedBy, rfl,
    resetCore s, rfl, rfl⟩

/-- Settles O28: a closed gate makes `CYCLE` answer the same state; an open one leaves the three outcomes of
the fetch and decode. -/
theorem displayWaitGatesCycle : Obligations.DisplayWaitGatesCycle := by
  intro s running
  refine ⟨fun on pending => ?_, fun off w i fetched decoded => ?_, fun off w fetched decoded => ?_,
    fun off noWord => ?_⟩
  · have closed := State.gateClosed_eq_true.mpr ⟨on, pending⟩
    exact ⟨cycleDiag_of_gateClosed running closed,
      applyEvents_replicate_of_fixed (cycle_of_gateClosed running closed)⟩
  all_goals have gate := State.gateClosed_of_not_displayWait off
  · exact cycle_of_executes ⟨running, gate, w, fetched, decoded⟩
  · exact ⟨cycle_of_unknown running gate fetched decoded, cycleDiag_of_unknown running gate fetched decoded⟩
  · exact cycle_of_fetch_none running gate noWord

end Sys2Proof.Machine
end

section
/-! PROOFS. Control transfer (spec/41_control.md R115 to R122): what the updates of `PC` and of the call stack
leave unchanged, the targets of the jumps as numbers, and the shape the skips share. The decoder has one equation
per row of the family (spec/30_encoding.md R73, R74). -/

namespace Sys2Proof

section decoding
variable {w : Word}

theorem decodeWord_ret (op : fieldOp w = 0x0#4) (n : fieldN w = 0xE#4) : decodeWord w = .instr .ret := by
  simp only [decodeWord, op, decode0, n]

theorem decodeWord_jp (op : fieldOp w = 0x1#4) : decodeWord w = .instr (.jp (fieldNNN w)) := by
  simp only [decodeWord, op]

theorem decodeWord_call (op : fieldOp w = 0x2#4) : decodeWord w = .instr (.call (fieldNNN w)) := by
  simp only [decodeWord, op]

theorem decodeWord_seImm (op : fieldOp w = 0x3#4) : decodeWord w = .instr (.seImm (fieldX w) (fieldNN w)) := by
  simp only [decodeWord, op]

theorem decodeWord_sneImm (op : fieldOp w = 0x4#4) : decodeWord w = .instr (.sneImm (fieldX w) (fieldNN w)) := by
  simp only [decodeWord, op]

theorem decodeWord_seReg (op : fieldOp w = 0x5#4) : decodeWord w = .instr (.seReg (fieldX w) (fieldY w)) := by
  simp only [decodeWord, op]

theorem decodeWord_sneReg (op : fieldOp w = 0x9#4) : decodeWord w = .instr (.sneReg (fieldX w) (fieldY w)) := by
  simp only [decodeWord, op]

theorem decodeWord_jpV0 (op : fieldOp w = 0xB#4) : decodeWord w = .instr (.jpV0 (fieldNNN w)) := by
  simp only [decodeWord, op]

end decoding

end Sys2Proof

namespace Sys2Proof.Machine

/-! ## Frames -/

theorem Part.Same.trans {p : Part} {s t u : State} (first : p.Same s t) (second : p.Same t u) : p.Same s u := by
  cases p with
  | regs | mem => exact fun a => (second a).trans (first a)
  | _ => exact Eq.trans second first

/-- Two updates one after the other change at most what either changes. -/
theorem SameBut.trans {ps qs : List Part} {s t u : State} (first : SameBut ps s t) (second : SameBut qs t u) :
    SameBut (ps ++ qs) s u := by
  intro p unlisted
  rw [List.mem_append, not_or] at unlisted
  exact (first p unlisted.1).trans (second p unlisted.2)

theorem State.sameBut_setPc (s : State) (w : Word) : SameBut [.pc] s (s.setPc w) := by
  intro p unlisted
  cases p with
  | pc => exact absurd (List.mem_singleton_self _) unlisted
  | regs | mem => exact fun _ => rfl
  | _ => exact rfl

theorem State.sameBut_skipIf (s : State) (c : Bool) : SameBut [.pc] s (s.skipIf c) := by
  cases c with
  | true => exact s.sameBut_setPc _
  | false => exact s.sameBut_setPc _

/-- A pop keeps the entries: it moves `SP` alone (R115). -/
theorem State.sameBut_of_pop {s t : State} {w : Word} (popped : s.pop = some (w, t)) : SameBut [.sp] s t := by
  obtain ⟨-, -, rfl⟩ := State.pop_eq_some.mp popped
  intro p unlisted
  cases p with
  | sp => exact absurd (List.mem_singleton_self _) unlisted
  | regs | mem => exact fun _ => rfl
  | _ => exact rfl

theorem State.sameBut_of_push {s t : State} {w : Word} (pushed : s.push w = some t) :
    SameBut [.stack, .sp] s t := by
  obtain ⟨-, rfl⟩ := State.push_eq_some.mp pushed
  intro p unlisted
  cases p with
  | stack | sp => exact absurd (by decide) unlisted
  | regs | mem => exact fun _ => rfl
  | _ => exact rfl

/-! ## Jump targets -/

@[simp] theorem addrWord_toNat (nnn : Addr) : (addrWord nnn).toNat = nnn.toNat :=
  BitVec.toNat_setWidth_of_le (by decide)

@[simp] theorem byteWord_toNat (b : Byte) : (byteWord b).toNat = b.toNat :=
  BitVec.toNat_setWidth_of_le (by decide)

/-- The sum of `JP V0, nnn` is at most 0x10FE, so it does not wrap (R122). -/
theorem byteWord_add_addrWord_toNat (b : Byte) (nnn : Addr) :
    (byteWord b + addrWord nnn).toNat = b.toNat + nnn.toNat := by
  have hb := b.isLt
  have hnnn := nnn.isLt
  have noWrap : (byteWord b).toNat + (addrWord nnn).toNat < 2 ^ 16 := by
    rw [byteWord_toNat, addrWord_toNat]
    omega
  rw [BitVec.toNat_add_of_lt noWrap, byteWord_toNat, addrWord_toNat]

/-! ## Skips -/

/-- An instruction that skips on a condition changes `PC` alone, to `pc + 4` or `pc + 2` (R106 class b). -/
theorem skip_spec {i : Instr} {s : State} {c : Bool} {P Q : Prop} (answer : exec i s = .next (s.skipIf c))
    (skips : P → c = true) (falls : Q → c = false) :
    ∃ t, exec i s = .next t ∧ SameBut [.pc] s t ∧ (P → t.pc = s.pc + 4#16) ∧ (Q → t.pc = s.pc + 2#16) := by
  refine ⟨_, answer, s.sameBut_skipIf c, fun hP => ?_, fun hQ => ?_⟩
  · rw [State.skipIf_pc, skips hP, if_pos rfl]
  · rw [State.skipIf_pc, falls hQ, if_neg Bool.false_ne_true]

/-! ## The obligations -/

/-- Settles O1: the pop answers the entry at the new `SP`, and has none exactly at `SP = 0`. -/
theorem retPopsOrUnderflows : Obligations.RetPopsOrUnderflows := by
  refine ⟨fun w bits => decodeWord_ret (fieldOp_of_mask rfl bits) (fieldN_of_mask rfl bits),
    fun s => ⟨fun h => ?_, fun empty => ?_⟩⟩
  · have popped := State.pop_eq_some.mpr ⟨h, rfl, rfl⟩
    exact ⟨_, orRaise_eq_next.mpr (.inl ⟨_, popped, rfl⟩), rfl, rfl,
      (State.sameBut_of_pop popped).trans (State.sameBut_setPc _ _)⟩
  · exact orRaise_eq_next.mpr (.inr ⟨State.pop_eq_none.mpr empty, rfl⟩)

/-- Settles O3: the push writes one entry and has no room exactly at `SP = 16`. -/
theorem callPushesOrOverflows : Obligations.CallPushesOrOverflows := by
  refine ⟨fun w bits => decodeWord_call (fieldOp_of_mask rfl bits),
    fun s nnn => ⟨fun h => ?_, fun full => ?_⟩⟩
  · have pushed := (State.push_eq_some (w := s.pc + 2#16)).mpr ⟨h, rfl⟩
    refine ⟨_, orRaise_eq_next.mpr (.inl ⟨_, pushed, rfl⟩), ?_, fun j hj other => ?_, rfl, addrWord_toNat nnn,
      (State.sameBut_of_push pushed).trans (State.sameBut_setPc _ _)⟩
    · exact congrArg BitVec.toNat (Vector.getElem_set_self h)
    · exact Vector.getElem_set_ne h hj other.symm
  · exact orRaise_eq_next.mpr (.inr ⟨State.push_eq_none.mpr full, rfl⟩)

/-- Settles O4: both skips have the shape of `skip_spec`, on equality with the immediate and on its negation. -/
theorem skipsOnImmediate : Obligations.SkipsOnImmediate := by
  refine ⟨fun w bits => decodeWord_seImm (fieldOp_of_mask rfl bits),
    fun w bits => decodeWord_sneImm (fieldOp_of_mask rfl bits), fun s x nn => ⟨?_, ?_⟩⟩
  · exact skip_spec rfl beq_iff_eq.mpr beq_eq_false_iff_ne.mpr
  · exact skip_spec rfl bne_iff_ne.mpr bne_eq_false_iff_eq.mpr

/-- Settles O5: both skips have the shape of `skip_spec`, on equality of the registers and on its negation. -/
theorem skipsOnRegisters : Obligations.SkipsOnRegisters := by
  refine ⟨fun w bits => decodeWord_seReg (fieldOp_of_mask rfl bits),
    fun w bits => decodeWord_sneReg (fieldOp_of_mask rfl bits), fun s x y => ⟨?_, ?_⟩⟩
  · exact skip_spec rfl beq_iff_eq.mpr beq_eq_false_iff_ne.mpr
  · exact skip_spec rfl bne_iff_ne.mpr bne_eq_false_iff_eq.mpr

/-- Settles O2: the one update is that of `PC`. -/
theorem jpAssignsPc : Obligations.JpAssignsPc :=
  ⟨fun _ bits => decodeWord_jp (fieldOp_of_mask rfl bits),
    fun s nnn => ⟨_, rfl, addrWord_toNat nnn, s.sameBut_setPc _⟩⟩

/-- Settles O6: the one update is that of `PC`, and the 16-bit sum does not wrap. -/
theorem jpV0AssignsTheSum : Obligations.JpV0AssignsTheSum :=
  ⟨fun _ bits => decodeWord_jpV0 (fieldOp_of_mask rfl bits),
    fun s nnn => ⟨_, rfl, byteWord_add_addrWord_toNat _ nnn, s.sameBut_setPc _⟩⟩

end Sys2Proof.Machine
end

section
/-! PROOFS. Register load and arithmetic-logic (spec/42_alu.md R135 to R146): the decoder's rows, what a write of
a register, or of a result and then the flag, leaves unchanged, and the results and flags as numbers. -/

namespace Sys2Proof

section decoding
variable {w : Word}

theorem decodeWord_ldImm (op : fieldOp w = 0x6#4) : decodeWord w = .instr (.ldImm (fieldX w) (fieldNN w)) := by
  simp only [decodeWord, op]

theorem decodeWord_addImm (op : fieldOp w = 0x7#4) : decodeWord w = .instr (.addImm (fieldX w) (fieldNN w)) := by
  simp only [decodeWord, op]

/-- The `op = 8` family is dispatched by `decode8` (R73). -/
theorem decodeWord_eq_decode8 (op : fieldOp w = 0x8#4) : decodeWord w = decode8 w := by
  simp only [decodeWord, op]

theorem decodeWord_ldReg (op : fieldOp w = 0x8#4) (n : fieldN w = 0x0#4) :
    decodeWord w = .instr (.ldReg (fieldX w) (fieldY w)) := by
  simp only [decodeWord_eq_decode8 op, decode8, n]

theorem decodeWord_orReg (op : fieldOp w = 0x8#4) (n : fieldN w = 0x1#4) :
    decodeWord w = .instr (.orReg (fieldX w) (fieldY w)) := by
  simp only [decodeWord_eq_decode8 op, decode8, n]

theorem decodeWord_andReg (op : fieldOp w = 0x8#4) (n : fieldN w = 0x2#4) :
    decodeWord w = .instr (.andReg (fieldX w) (fieldY w)) := by
  simp only [decodeWord_eq_decode8 op, decode8, n]

theorem decodeWord_xorReg (op : fieldOp w = 0x8#4) (n : fieldN w = 0x3#4) :
    decodeWord w = .instr (.xorReg (fieldX w) (fieldY w)) := by
  simp only [decodeWord_eq_decode8 op, decode8, n]

theorem decodeWord_addReg (op : fieldOp w = 0x8#4) (n : fieldN w = 0x4#4) :
    decodeWord w = .instr (.addReg (fieldX w) (fieldY w)) := by
  simp only [decodeWord_eq_decode8 op, decode8, n]

theorem decodeWord_sub (op : fieldOp w = 0x8#4) (n : fieldN w = 0x5#4) :
    decodeWord w = .instr (.sub (fieldX w) (fieldY w)) := by
  simp only [decodeWord_eq_decode8 op, decode8, n]

theorem decodeWord_shr (op : fieldOp w = 0x8#4) (n : fieldN w = 0x6#4) :
    decodeWord w = .instr (.shr (fieldX w) (fieldY w)) := by
  simp only [decodeWord_eq_decode8 op, decode8, n]

theorem decodeWord_subn (op : fieldOp w = 0x8#4) (n : fieldN w = 0x7#4) :
    decodeWord w = .instr (.subn (fieldX w) (fieldY w)) := by
  simp only [decodeWord_eq_decode8 op, decode8, n]

theorem decodeWord_shl (op : fieldOp w = 0x8#4) (n : fieldN w = 0xE#4) :
    decodeWord w = .instr (.shl (fieldX w) (fieldY w)) := by
  simp only [decodeWord_eq_decode8 op, decode8, n]

end decoding

end Sys2Proof

namespace Sys2Proof.Machine

/-! ## Frames -/

theorem State.sameBut_setReg (s : State) (x : RegIdx) (b : Byte) : SameBut [.regs] s (s.setReg x b) := by
  intro p unlisted
  cases p with
  | regs => exact absurd (List.mem_singleton_self _) unlisted
  | mem => exact fun _ => rfl
  | _ => exact rfl

theorem State.sameBut_setResultAndFlag (s : State) (x : RegIdx) (r : Byte) (f : Bool) :
    SameBut [.regs] s (s.setResultAndFlag x r f) := fun p unlisted =>
  (s.sameBut_setReg x r p unlisted).trans (State.sameBut_setReg _ vF _ p unlisted)

theorem State.regsBut_setReg (s : State) (x : RegIdx) (b : Byte) : RegsBut [x] s (s.setReg x b) := by
  intro y unlisted
  rw [State.reg_setReg, if_neg (List.ne_of_not_mem_cons unlisted)]

theorem State.regsBut_setResultAndFlag (s : State) (x : RegIdx) (r : Byte) (f : Bool) :
    RegsBut [x, vF] s (s.setResultAndFlag x r f) := by
  intro y unlisted
  rw [List.mem_cons, List.mem_singleton, not_or] at unlisted
  obtain ⟨notResult, notFlag⟩ := unlisted
  rw [State.reg_setResultAndFlag, if_neg notFlag, if_neg notResult]

/-! ## The shapes the instructions share -/

section shapes
variable {i : Instr} {s : State} {x : RegIdx} {Q : State → Prop}

/-- An instruction that loads one register has no flag effect; `Q` is what its result says of `V[x]`. -/
theorem load_spec {b : Byte} (answer : exec i s = .next (s.setReg x b).advance)
    (result : ∀ t : State, t.reg x = b → Q t) :
    ∃ t, exec i s = .next t ∧ Q t ∧ RegsBut [x] s t ∧ t.pc = s.pc + 2#16 ∧ SameBut [.regs, .pc] s t :=
  ⟨_, answer, result _ (by rw [State.advance_reg, State.reg_setReg, if_pos rfl]), s.regsBut_setReg x b, rfl,
    (s.sameBut_setReg x b).trans (State.sameBut_setPc _ _)⟩

/-- An instruction with a result and a flag has the flag in `VF` for every `x`, and the result in `V[x]` for
`x` below 15, since the flag is written last (R107, decision D2); `Q` is what the result says of `V[x]`. -/
theorem resultAndFlag_spec {r : Byte} {f : Bool} {m : Nat}
    (answer : exec i s = .next (s.setResultAndFlag x r f).advance) (flag : (flagByte f).toNat = m)
    (result : ∀ t : State, t.reg x = r → Q t) :
    ∃ t, exec i s = .next t ∧ (t.reg vF).toNat = m ∧ (x ≠ vF → Q t) ∧ RegsBut [x, vF] s t ∧
      t.pc = s.pc + 2#16 ∧ SameBut [.regs, .pc] s t := by
  refine ⟨_, answer, ?_, fun notFlag => result _ ?_, s.regsBut_setResultAndFlag x r f, rfl,
    (s.sameBut_setResultAndFlag x r f).trans (State.sameBut_setPc _ _)⟩
  · rw [State.advance_reg, State.reg_setResultAndFlag, if_pos rfl, flag]
  · rw [State.advance_reg, State.reg_setResultAndFlag, if_neg notFlag, if_pos rfl]

end shapes

/-! ## Flags and results as numbers -/

theorem flagByte_toNat (b : Bool) : (flagByte b).toNat = b.toNat := by
  cases b <;> rfl

theorem flagByte_decide_toNat (p : Prop) [Decidable p] : (flagByte (decide p)).toNat = if p then 1 else 0 := by
  by_cases h : p
  · rw [decide_eq_true h, if_pos h]
    rfl
  · rw [decide_eq_false h, if_neg h]
    rfl

/-- The carry of the true sum (R141). -/
theorem flagByte_carryFlag (a b : Byte) :
    (flagByte (carryFlag a b)).toNat = if 255 < a.toNat + b.toNat then 1 else 0 :=
  flagByte_decide_toNat _

/-- No borrow: the minuend is at least the subtrahend (R142, R143). -/
theorem flagByte_noBorrowFlag (a b : Byte) :
    (flagByte (noBorrowFlag a b)).toNat = if b.toNat ≤ a.toNat then 1 else 0 :=
  flagByte_decide_toNat _

/-- The lowest bit is the remainder by 2 (R144). -/
theorem flagByte_shiftOutLow (b : Byte) : (flagByte (shiftOutLow b)).toNat = b.toNat % 2 := by
  rw [flagByte_toNat, shiftOutLow, BitVec.getLsbD, Nat.toNat_testBit, Nat.pow_zero, Nat.div_one]

/-- The highest bit is the quotient by 128, being at most 1 (R145). -/
theorem flagByte_shiftOutHigh (b : Byte) : (flagByte (shiftOutHigh b)).toNat = b.toNat / 128 := by
  have hb := b.isLt
  rw [flagByte_toNat, shiftOutHigh, BitVec.getLsbD, Nat.toNat_testBit]
  omega

/-- A difference of bytes wraps at 256 (R142, R143). -/
theorem byte_sub_toNat (a b : Byte) : (a - b).toNat = (256 + a.toNat - b.toNat) % 256 := by
  have hb := b.isLt
  rw [BitVec.toNat_sub]
  omega

/-! ## The obligations -/

/-- Settles O8: the sum of two bytes wraps at 256, and the one register written is `V[x]`. -/
theorem addImmediateWrapsWithoutFlag : Obligations.AddImmediateWrapsWithoutFlag := by
  refine ⟨fun w bits => decodeWord_addImm (fieldOp_of_mask rfl bits), fun s x nn => load_spec rfl ?_⟩
  intro t written
  rw [written, BitVec.toNat_add]

/-- Settles O9: the operations act on each bit, and the flag written last is 0. -/
theorem logicOperationsClearVF : Obligations.LogicOperationsClearVF := by
  refine ⟨fun w bits => decodeWord_orReg (fieldOp_of_mask rfl bits) (fieldN_of_mask rfl bits),
    fun w bits => decodeWord_andReg (fieldOp_of_mask rfl bits) (fieldN_of_mask rfl bits),
    fun w bits => decodeWord_xorReg (fieldOp_of_mask rfl bits) (fieldN_of_mask rfl bits),
    fun s x y => ⟨resultAndFlag_spec rfl rfl ?_, resultAndFlag_spec rfl rfl ?_, resultAndFlag_spec rfl rfl ?_⟩⟩
  all_goals intro t written k _
  · rw [written, BitVec.getLsbD_or]
  · rw [written, BitVec.getLsbD_and]
  · rw [written, BitVec.getLsbD_xor]

/-- Settles O10: the sum of two bytes wraps at 256, and the carry of the true sum is written last. -/
theorem addRegistersSetsCarry : Obligations.AddRegistersSetsCarry := by
  refine ⟨fun w bits => decodeWord_addReg (fieldOp_of_mask rfl bits) (fieldN_of_mask rfl bits),
    fun s x y => resultAndFlag_spec rfl (flagByte_carryFlag _ _) ?_⟩
  intro t written
  rw [written, BitVec.toNat_add]

/-- Settles O11: `SUBN` is `SUB` with minuend and subtrahend exchanged, its destination still `V[x]`. -/
theorem subtractionsSetNoBorrow : Obligations.SubtractionsSetNoBorrow := by
  refine ⟨fun w bits => decodeWord_sub (fieldOp_of_mask rfl bits) (fieldN_of_mask rfl bits),
    fun w bits => decodeWord_subn (fieldOp_of_mask rfl bits) (fieldN_of_mask rfl bits),
    fun s x y => ⟨resultAndFlag_spec rfl (flagByte_noBorrowFlag _ _) ?_,
      resultAndFlag_spec rfl (flagByte_noBorrowFlag _ _) ?_⟩⟩
  all_goals
    intro t written
    rw [written, byte_sub_toNat]

/-- Settles O12: the source of both shifts is `V[y]`, and the bit shifted out is written last. -/
theorem shiftsReadVyAndSetVF : Obligations.ShiftsReadVyAndSetVF := by
  refine ⟨fun w bits => decodeWord_shr (fieldOp_of_mask rfl bits) (fieldN_of_mask rfl bits),
    fun w bits => decodeWord_shl (fieldOp_of_mask rfl bits) (fieldN_of_mask rfl bits),
    fun s x y => ⟨resultAndFlag_spec rfl (flagByte_shiftOutLow _) ?_,
      resultAndFlag_spec rfl (flagByte_shiftOutHigh _) ?_⟩⟩
  all_goals intro t written
  · rw [written, BitVec.toNat_ushiftRight, Nat.shiftRight_eq_div_pow, Nat.pow_one]
  · rw [written, BitVec.toNat_shiftLeft, Nat.shiftLeft_eq, Nat.pow_one, Nat.mul_comm]

/-- Settles O7: both loads write the one register `V[x]`. -/
theorem loadsOfARegister : Obligations.LoadsOfARegister :=
  ⟨fun _ bits => decodeWord_ldImm (fieldOp_of_mask rfl bits),
    fun _ bits => decodeWord_ldReg (fieldOp_of_mask rfl bits) (fieldN_of_mask rfl bits),
    fun _ _ _ _ => ⟨load_spec rfl fun _ => id, load_spec rfl fun _ => id⟩⟩

end Sys2Proof.Machine
end

section
/-! PROOFS. The index register and memory (spec/43_index_memory.md R165 to R171): the decoder's rows, what an
update of `I`, of memory and of a block of registers leaves unchanged, the values of `I` as numbers, and the bytes
of memory after a block write. -/

namespace Sys2Proof

section decoding
variable {w : Word}

theorem decodeWord_ldI (op : fieldOp w = 0xA#4) : decodeWord w = .instr (.ldI (fieldNNN w)) := by
  simp only [decodeWord, op]

/-- The `op = F` family is dispatched by `decodeF` (R73). -/
theorem decodeWord_eq_decodeF (op : fieldOp w = 0xF#4) : decodeWord w = decodeF w := by
  simp only [decodeWord, op]

theorem decodeWord_addI (op : fieldOp w = 0xF#4) (nn : fieldNN w = 0x1E#8) :
    decodeWord w = .instr (.addI (fieldX w)) := by
  simp only [decodeWord_eq_decodeF op, decodeF, nn]

theorem decodeWord_ldF (op : fieldOp w = 0xF#4) (nn : fieldNN w = 0x29#8) :
    decodeWord w = .instr (.ldF (fieldX w)) := by
  simp only [decodeWord_eq_decodeF op, decodeF, nn]

theorem decodeWord_ldB (op : fieldOp w = 0xF#4) (nn : fieldNN w = 0x33#8) :
    decodeWord w = .instr (.ldB (fieldX w)) := by
  simp only [decodeWord_eq_decodeF op, decodeF, nn]

theorem decodeWord_storeRegs (op : fieldOp w = 0xF#4) (nn : fieldNN w = 0x55#8) :
    decodeWord w = .instr (.storeRegs (fieldX w)) := by
  simp only [decodeWord_eq_decodeF op, decodeF, nn]

theorem decodeWord_loadRegs (op : fieldOp w = 0xF#4) (nn : fieldNN w = 0x65#8) :
    decodeWord w = .instr (.loadRegs (fieldX w)) := by
  simp only [decodeWord_eq_decodeF op, decodeF, nn]

end decoding

end Sys2Proof

namespace Sys2Proof.Machine

/-! ## Frames -/

theorem State.sameBut_setI (s : State) (w : Word) : SameBut [.index] s (s.setI w) := by
  intro p unlisted
  cases p with
  | index => exact absurd (List.mem_singleton_self _) unlisted
  | regs | mem => exact fun _ => rfl
  | _ => exact rfl

theorem State.sameBut_setMem (s : State) (m : List Host.Cell) : SameBut [.mem] s (s.setMem m) := by
  intro p unlisted
  cases p with
  | mem => exact absurd (List.mem_singleton_self _) unlisted
  | regs => exact fun _ => rfl
  | _ => exact rfl

theorem State.sameBut_loadRegList (s : State) (bytes : List Byte) : SameBut [.regs] s (s.loadRegList bytes) := by
  intro p unlisted
  cases p with
  | regs => exact absurd (List.mem_singleton_self _) unlisted
  | mem => exact s.loadRegList_byte bytes
  | _ => simp [Part.Same]

/-- `I` and then `PC`, the last two updates of every instruction that sets `I`. -/
theorem State.sameBut_setI_advance (s : State) (w : Word) : SameBut [.index, .pc] s (s.setI w).advance :=
  (s.sameBut_setI w).trans (State.sameBut_setPc _ _)

/-! ## The values of `I` -/

/-- The largest glyph address is 255 * 5 = 1275, so the product does not wrap (R167). -/
theorem glyphAddr_toNat (vx : Byte) : (glyphAddr vx).toNat = vx.toNat * 5 := by
  have hvx := vx.isLt
  rw [glyphAddr, BitVec.toNat_mul, byteWord_toNat, BitVec.toNat_ofNat]
  omega

theorem State.blockEnd_toNat (s : State) (x : RegIdx) :
    (s.blockEnd x).toNat = (s.i.toNat + x.toNat + 1) % 65536 :=
  BitVec.toNat_ofNat _ _

/-- An instruction that only sets `I` raises no fault and has no flag effect. -/
theorem index_spec {i : Instr} {s : State} {w : Word} {m : Nat} (answer : exec i s = .next (s.setI w).advance)
    (value : w.toNat = m) :
    ∃ t, exec i s = .next t ∧ t.i.toNat = m ∧ t.pc = s.pc + 2#16 ∧ SameBut [.index, .pc] s t :=
  ⟨_, answer, value, rfl, s.sameBut_setI_advance w⟩

/-! ## Memory after a block write -/

/-- Byte `j` of the block lies at `a + j` (R10). -/
theorem memByte_memPuts_add (m : List Host.Cell) (a : Nat) {bs : List Byte} {j : Nat} (inside : j < bs.length) :
    memByte (memPuts m a bs) (a + j) = bs.getD j 0x00#8 := by
  rw [memByte_memPuts, if_pos ⟨Nat.le_add_right a j, Nat.add_lt_add_left inside a⟩, Nat.add_sub_cancel_left]

theorem State.bytesBut_setMem_memPuts (s : State) (a : Nat) (bs : List Byte) :
    BytesBut a bs.length s (s.setMem (memPuts s.mem a bs)) := by
  intro b outside
  have notInside : ¬ (a ≤ b ∧ b < a + bs.length) := by omega
  exact (memByte_memPuts bs s.mem a b).trans (if_neg notInside)

/-- An instruction that stores a non-empty block at `I` completes with the block written when it fits in memory,
and else takes `MemBounds(I)` before any byte has moved (R56, R231). -/
theorem store_answers {i : Instr} {s : State} {bs : List Byte} {k : List Host.Cell → State}
    (answer : exec i s = orRaise (memWrite s.mem s.dataAddr bs) (.memBounds s.i) s k) (nonempty : 0 < bs.length) :
    (s.i.toNat + bs.length ≤ 4096 → exec i s = .next (k (memPuts s.mem s.i.toNat bs))) ∧
    (4096 < s.i.toNat + bs.length → exec i s = .next (s.raise (.memBounds s.i))) := by
  rw [answer]
  exact ⟨fun fits => orRaise_eq_next.mpr (.inl ⟨_, memWrite_eq_some.mpr ⟨.inr fits, rfl⟩, rfl⟩),
    fun beyond => orRaise_eq_next.mpr (.inr ⟨memWrite_eq_none.mpr ⟨nonempty, beyond⟩, rfl⟩)⟩

/-! ## Registers after a block load -/

/-- `V[j]` up to `x` is the byte at `a + j` (R170). -/
theorem State.reg_loadRegList_memBytes_of_le (s : State) (a : Nat) {x j : RegIdx} (upTo : j.toNat ≤ x.toNat) :
    (s.loadRegList (memBytes s.mem a (blockLen x))).reg j = s.byte (a + j.toNat) := by
  have inside : j.toNat < blockLen x := Nat.lt_succ_of_le upTo
  rw [State.reg_loadRegList, memBytes_getD, if_pos inside, State.byte]

/-- The registers above `V[x]` keep their values (R170). -/
theorem State.reg_loadRegList_memBytes_of_lt (s : State) (a : Nat) {x j : RegIdx} (above : x.toNat < j.toNat) :
    (s.loadRegList (memBytes s.mem a (blockLen x))).reg j = s.reg j := by
  have outside : ¬ j.toNat < blockLen x := Nat.not_lt_of_ge above
  rw [State.reg_loadRegList, memBytes_getD, if_neg outside]

/-! ## The obligations -/

/-- Settles O14: each instruction has the shape of `index_spec`, and only `ADD I, Vx` can wrap. -/
theorem indexRegisterIsSet : Obligations.IndexRegisterIsSet := by
  refine ⟨fun w bits => decodeWord_ldI (fieldOp_of_mask rfl bits),
    fun w bits => decodeWord_addI (fieldOp_of_mask rfl bits) (fieldNN_of_mask rfl bits),
    fun w bits => decodeWord_ldF (fieldOp_of_mask rfl bits) (fieldNN_of_mask rfl bits),
    fun s x nnn => ⟨index_spec rfl (addrWord_toNat nnn), index_spec rfl ?_, index_spec rfl (glyphAddr_toNat _)⟩⟩
  rw [BitVec.toNat_add, byteWord_toNat]

/-- Settles O15: the block stored is the three digits, each of which fits a byte. -/
theorem bcdStoreWritesThreeDigits : Obligations.BcdStoreWritesThreeDigits := by
  refine ⟨fun w bits => decodeWord_ldB (fieldOp_of_mask rfl bits) (fieldNN_of_mask rfl bits), fun s x => ?_⟩
  have hvx := (s.reg x).isLt
  have stored : ∀ j < 3, memByte (memPuts s.mem s.i.toNat (bcdDigits (s.reg x))) (s.i.toNat + j) =
      (bcdDigits (s.reg x)).getD j 0x00#8 := fun j inside =>
    memByte_memPuts_add (bs := bcdDigits (s.reg x)) s.mem s.i.toNat inside
  obtain ⟨completes, faults⟩ := store_answers (i := .ldB x) (s := s) rfl (Nat.zero_lt_succ 2)
  refine ⟨fun fits => ⟨_, completes fits, ?_, ?_, ?_, s.bytesBut_setMem_memPuts _ (bcdDigits (s.reg x)), rfl,
    (s.sameBut_setMem _).trans (State.sameBut_setPc _ _)⟩, faults⟩
  · exact (congrArg BitVec.toNat (stored 0 (by decide))).trans (Nat.mod_eq_of_lt (by omega))
  · exact (congrArg BitVec.toNat (stored 1 (by decide))).trans (Nat.mod_eq_of_lt (by omega))
  · exact (congrArg BitVec.toNat (stored 2 (by decide))).trans (Nat.mod_eq_of_lt (by omega))

/-- Settles O16: the block stored is `V0..Vx`, of `x + 1` bytes. -/
theorem blockStoreWritesRegisters : Obligations.BlockStoreWritesRegisters := by
  refine ⟨fun w bits => decodeWord_storeRegs (fieldOp_of_mask rfl bits) (fieldNN_of_mask rfl bits), fun s x => ?_⟩
  have length : (s.regsUpTo x).length = x.toNat + 1 := s.regsUpTo_length x
  have nonempty : 0 < (s.regsUpTo x).length := length ▸ Nat.zero_lt_succ _
  obtain ⟨completes, faults⟩ := store_answers (i := .storeRegs x) (s := s) rfl nonempty
  rw [length] at completes faults
  have frame := s.bytesBut_setMem_memPuts s.i.toNat (s.regsUpTo x)
  rw [length] at frame
  refine ⟨fun fits => ⟨_, completes fits, fun j upTo => ?_, frame, s.blockEnd_toNat x, rfl,
    (s.sameBut_setMem _).trans (State.sameBut_setI_advance _ _)⟩, faults⟩
  have inside : j.toNat < (s.regsUpTo x).length := length ▸ Nat.lt_succ_of_le upTo
  exact (memByte_memPuts_add s.mem s.i.toNat inside).trans (s.regsUpTo_getD x j _ upTo)

/-- Settles O17: the block read has `x + 1` bytes, so the registers above `V[x]` are not loaded. -/
theorem blockLoadReadsRegisters : Obligations.BlockLoadReadsRegisters := by
  refine ⟨fun w bits => decodeWord_loadRegs (fieldOp_of_mask rfl bits) (fieldNN_of_mask rfl bits),
    fun s x => ⟨fun fits => ?_, fun beyond => ?_⟩⟩
  · have read : memRead s.mem s.dataAddr (blockLen x) = some (memBytes s.mem s.dataAddr (blockLen x)) :=
      memRead_eq_some.mpr ⟨.inr fits, rfl⟩
    refine ⟨_, orRaise_eq_next.mpr (.inl ⟨_, read, rfl⟩), fun _ => s.reg_loadRegList_memBytes_of_le _,
      fun _ => s.reg_loadRegList_memBytes_of_lt _, s.blockEnd_toNat x, ?_,
      (s.sameBut_loadRegList _).trans (State.sameBut_setI_advance _ _)⟩
    rw [State.advance_pc, State.setI_pc, State.loadRegList_pc]
  · exact orRaise_eq_next.mpr (.inr ⟨memRead_eq_none.mpr ⟨Nat.zero_lt_succ _, beyond⟩, rfl⟩)

end Sys2Proof.Machine
end

section
/-! PROOFS. The framebuffer and display (spec/44_display.md R185 to R192): the decoder's rows, what an update of
`FB`, of `DRAW_FLAG` and of `VF` leaves unchanged, and the draw algorithm read off `State.Covers`. -/

namespace Sys2Proof

section decoding
variable {w : Word}

theorem decodeWord_cls (op : fieldOp w = 0x0#4) (n : fieldN w = 0x0#4) : decodeWord w = .instr .cls := by
  simp only [decodeWord, op, decode0, n]

theorem decodeWord_drw (op : fieldOp w = 0xD#4) :
    decodeWord w = .instr (.drw (fieldX w) (fieldY w) (fieldN w)) := by
  simp only [decodeWord, op]

end decoding

end Sys2Proof

namespace Sys2Proof.Machine

/-! ## Frames -/

theorem State.sameBut_setFb (s : State) (f : Vector (BitVec 64) 32) : SameBut [.fb] s (s.setFb f) := by
  intro p unlisted
  cases p with
  | fb => exact absurd (List.mem_singleton_self _) unlisted
  | regs | mem => exact fun _ => rfl
  | _ => exact rfl

theorem State.sameBut_setDrawFlag (s : State) (b : Bool) : SameBut [.drawFlag] s (s.setDrawFlag b) := by
  intro p unlisted
  cases p with
  | drawFlag => exact absurd (List.mem_singleton_self _) unlisted
  | regs | mem => exact fun _ => rfl
  | _ => exact rfl

/-- A larger list of parts excuses more. -/
theorem SameBut.mono {ps qs : List Part} {s t : State} (same : SameBut ps s t) (sub : ps ⊆ qs) : SameBut qs s t :=
  fun p unlisted => same p (unlisted <| sub ·)

/-! ## The draw algorithm -/

/-- What `DRW` draws and whether it collides: the `n` rows at `I`, from the position `(vx, vy)`. -/
def State.drawAtI (s : State) (vx vy : Byte) (n : Nat) : Vector (BitVec 64) 32 × Bool :=
  s.drawSprite vx vy (memBytes s.mem s.i.toNat n)

/-- What `DRW` leaves once framebuffer and collision flag are known (R189). -/
def State.afterDraw (s : State) (drawn : Vector (BitVec 64) 32 × Bool) : State :=
  (((s.setFb drawn.1).setFlag drawn.2).setDrawFlag true).advance

/-- The pixels the draw algorithm toggles are those covered by the sprite. -/
theorem State.mem_spritePixels_iff_covers {s : State} {vx vy : Byte} {n : Nat} {px : Col} {py : Row} :
    (px, py) ∈ spritePixels s.clipOnDraw (originCol vx) (originRow vy) (memBytes s.mem s.i.toNat n) ↔
      s.Covers vx vy n px py := by
  rw [mem_spritePixels, memBytes_length, State.Covers]
  refine exists₂_congr fun row col => and_congr_right fun inside => and_congr_right fun _ => ?_
  rw [memBytes_getD, if_pos inside, targetPixel_eq_some, spriteBit, originCol, originRow]

section drawing
variable {s : State} {vx vy : Byte} {n : Nat} (rows : n ≤ 32)
include rows

/-- No pixel comes twice, so `drawPixels_spec` says what is drawn. -/
theorem State.nodup_pixels_at_I :
    (spritePixels s.clipOnDraw (originCol vx) (originRow vy) (memBytes s.mem s.i.toNat n)).Nodup :=
  nodup_spritePixels _ _ _ _ (Nat.le_trans (Nat.le_of_eq (memBytes_length ..)) rows)

/-- A covered pixel is flipped (R189). -/
theorem State.pixel_drawAtI_of_covers {px : Col} {py : Row} (covered : s.Covers vx vy n px py) :
    pixel (s.drawAtI vx vy n).1 px py = !pixel s.fb px py := by
  rw [State.drawAtI, State.drawSprite, (drawPixels_spec _ (State.nodup_pixels_at_I rows) _ _).1,
    decide_eq_true (State.mem_spritePixels_iff_covers.mpr covered), Bool.xor_true]

/-- A pixel the sprite does not cover is left alone (R189). -/
theorem State.pixel_drawAtI_of_not_covers {px : Col} {py : Row} (uncovered : ¬ s.Covers vx vy n px py) :
    pixel (s.drawAtI vx vy n).1 px py = pixel s.fb px py := by
  rw [State.drawAtI, State.drawSprite, (drawPixels_spec _ (State.nodup_pixels_at_I rows) _ _).1,
    decide_eq_false (uncovered <| State.mem_spritePixels_iff_covers.mp ·), Bool.xor_false]

/-- The collision flag is raised exactly when a covered pixel was lit (R189). -/
theorem State.drawAtI_hit :
    (s.drawAtI vx vy n).2 = true ↔ ∃ px py, s.Covers vx vy n px py ∧ pixel s.fb px py = true := by
  rw [State.drawAtI, State.drawSprite, (drawPixels_spec _ (State.nodup_pixels_at_I rows) _ _).2, Bool.false_or,
    List.any_eq_true, Prod.exists]
  exact exists₂_congr fun _ _ => and_congr_left' State.mem_spritePixels_iff_covers

end drawing

theorem State.reg_vF_afterDraw (s : State) (drawn : Vector (BitVec 64) 32 × Bool) :
    (s.afterDraw drawn).reg vF = flagByte drawn.2 :=
  (State.reg_setFlag (s.setFb drawn.1) drawn.2 vF).trans (if_pos rfl)

theorem State.regsBut_afterDraw (s : State) (drawn : Vector (BitVec 64) 32 × Bool) :
    RegsBut [vF] s (s.afterDraw drawn) :=
  State.regsBut_setReg (s.setFb drawn.1) vF (flagByte drawn.2)

theorem State.sameBut_afterDraw (s : State) (drawn : Vector (BitVec 64) 32 × Bool) :
    SameBut [.regs, .fb, .drawFlag, .pc] s (s.afterDraw drawn) :=
  ((((s.sameBut_setFb drawn.1).trans (State.sameBut_setReg _ vF _)).trans (State.sameBut_setDrawFlag _ true)).trans
    (State.sameBut_setPc _ _)).mono (by decide)

/-- A sprite inside memory, or without rows, is drawn (R189, decision D22). -/
theorem exec_drw_of_fits {s : State} {n : Nibble} (x y : RegIdx)
    (fits : n.toNat = 0 ∨ s.i.toNat + n.toNat ≤ 4096) :
    exec (.drw x y n) s = .next (s.afterDraw (s.drawAtI (s.reg x) (s.reg y) n.toNat)) :=
  orRaise_eq_next.mpr (.inl ⟨_, memRead_eq_some.mpr ⟨fits, rfl⟩, rfl⟩)

/-- A sprite that leaves memory faults before any pixel is drawn (R189, decision D22). -/
theorem exec_drw_of_beyond {s : State} {n : Nibble} (x y : RegIdx)
    (beyond : 0 < n.toNat ∧ 4096 < s.i.toNat + n.toNat) :
    exec (.drw x y n) s = .next (s.raise (.memBounds s.i)) :=
  orRaise_eq_next.mpr (.inr ⟨memRead_eq_none.mpr beyond, rfl⟩)

/-! ## The obligations -/

/-- Settles O19: the pixels toggled are the covered ones, each toggled once because a sprite has at most 15 rows. -/
theorem drwFlipsTheCoveredPixels : Obligations.DrwFlipsTheCoveredPixels := by
  refine ⟨fun w bits => decodeWord_drw (fieldOp_of_mask rfl bits),
    fun s x y n => ⟨fun fits => ?_, exec_drw_of_beyond x y⟩⟩
  have rows : n.toNat ≤ 32 := by have := n.isLt; omega
  have flag := s.reg_vF_afterDraw (s.drawAtI (s.reg x) (s.reg y) n.toNat)
  refine ⟨_, exec_drw_of_fits x y fits, fun _ _ => State.pixel_drawAtI_of_covers rows,
    fun _ _ => State.pixel_drawAtI_of_not_covers rows, fun hit => ?_, fun noHit => ?_, rfl,
    s.regsBut_afterDraw _, rfl, s.sameBut_afterDraw _⟩
  · rw [(State.drawAtI_hit rows).mpr hit] at flag
    exact flag
  · rw [Bool.eq_false_iff.mpr (noHit <| (State.drawAtI_hit rows).mp ·)] at flag
    exact flag

/-- Settles O18: the framebuffer after the one update is the cleared one. -/
theorem clsTurnsEveryPixelOff : Obligations.ClsTurnsEveryPixelOff :=
  ⟨fun _ bits => decodeWord_cls (fieldOp_of_mask rfl bits) (fieldN_of_mask rfl bits),
    fun s => ⟨_, rfl, pixel_clearFb, rfl, (s.sameBut_setFb clearFb).trans (State.sameBut_setPc _ _)⟩⟩

end Sys2Proof.Machine
end

section
/-! PROOFS. The keypad and timers (spec/45_keypad_timers.md R205 to R210): the decoder's rows, what an update of a
timer and of `WAIT` leaves unchanged, the lowest key that is down, the shape the skips on a key share, and one
equation per case of the wait for a key. -/

namespace Sys2Proof

section decoding
variable {w : Word}

theorem decodeWord_skp (op : fieldOp w = 0xE#4) (n : fieldN w = 0xE#4) :
    decodeWord w = .instr (.skp (fieldX w)) := by
  simp only [decodeWord, op, decodeE, n]

theorem decodeWord_sknp (op : fieldOp w = 0xE#4) (n : fieldN w = 0x1#4) :
    decodeWord w = .instr (.sknp (fieldX w)) := by
  simp only [decodeWord, op, decodeE, n]

theorem decodeWord_ldVxDT (op : fieldOp w = 0xF#4) (nn : fieldNN w = 0x07#8) :
    decodeWord w = .instr (.ldVxDT (fieldX w)) := by
  simp only [decodeWord_eq_decodeF op, decodeF, nn]

theorem decodeWord_ldVxK (op : fieldOp w = 0xF#4) (nn : fieldNN w = 0x0A#8) :
    decodeWord w = .instr (.ldVxK (fieldX w)) := by
  simp only [decodeWord_eq_decodeF op, decodeF, nn]

theorem decodeWord_ldDTVx (op : fieldOp w = 0xF#4) (nn : fieldNN w = 0x15#8) :
    decodeWord w = .instr (.ldDTVx (fieldX w)) := by
  simp only [decodeWord_eq_decodeF op, decodeF, nn]

theorem decodeWord_ldSTVx (op : fieldOp w = 0xF#4) (nn : fieldNN w = 0x18#8) :
    decodeWord w = .instr (.ldSTVx (fieldX w)) := by
  simp only [decodeWord_eq_decodeF op, decodeF, nn]

end decoding

end Sys2Proof

namespace Sys2Proof.Machine

/-! ## Frames -/

theorem State.sameBut_setDt (s : State) (b : Byte) : SameBut [.dt] s (s.setDt b) := by
  intro p unlisted
  cases p with
  | dt => exact absurd (List.mem_singleton_self _) unlisted
  | regs | mem => exact fun _ => rfl
  | _ => exact rfl

theorem State.sameBut_setSt (s : State) (b : Byte) : SameBut [.st] s (s.setSt b) := by
  intro p unlisted
  cases p with
  | st => exact absurd (List.mem_singleton_self _) unlisted
  | regs | mem => exact fun _ => rfl
  | _ => exact rfl

theorem State.sameBut_setWait (s : State) (w : Wait) : SameBut [.wait] s (s.setWait w) := by
  intro p unlisted
  cases p with
  | wait => exact absurd (List.mem_singleton_self _) unlisted
  | regs | mem => exact fun _ => rfl
  | _ => exact rfl

/-! ## Keys -/

/-- Zero extension of a key number to a byte keeps the number (R208). -/
theorem keyByte_toNat (k : Key) : (keyByte k).toNat = k.val :=
  Nat.mod_eq_of_lt (Nat.lt_trans k.isLt (by decide))

/-- The scan visits every key, in order. -/
theorem keyScan_getElem {i : Nat} (inside : i < keyScan.length) : keyScan[i] = (⟨i, inside⟩ : Key) := by
  have inOrder : ∀ k : Key, keyScan[k.val]'k.isLt = k := by decide
  exact inOrder ⟨i, inside⟩

theorem mem_keyScan (k : Key) : k ∈ keyScan :=
  List.mem_of_getElem (keyScan_getElem k.isLt)

/-- "the least such k" (R208): the keys the scan meets before `k` are those of lower number. -/
theorem State.firstKey_eq_some {s : State} {k : Key} :
    s.firstKey = some k ↔ s.key k = true ∧ ∀ j : Key, j.val < k.val → s.key j = false := by
  rw [State.firstKey, List.find?_eq_some_iff_getElem]
  refine and_congr_right fun _ => ⟨?_, fun lowerUp => ?_⟩
  · intro ⟨i, inside, found, before⟩ j lower
    rw [keyScan_getElem] at found
    subst found
    have up := before j.val lower
    rwa [keyScan_getElem, Bool.not_eq_true'] at up
  · refine ⟨k.val, k.isLt, keyScan_getElem _, fun j lower => ?_⟩
    rw [keyScan_getElem, Bool.not_eq_true']
    exact lowerUp _ lower

theorem State.firstKey_eq_none {s : State} : s.firstKey = none ↔ ∀ k : Key, s.key k = false := by
  rw [State.firstKey, List.find?_eq_none]
  exact ⟨fun allUp k => Bool.eq_false_iff.mpr (allUp k (mem_keyScan k)),
    fun allUp k _ => Bool.eq_false_iff.mp (allUp k)⟩

/-! ## The skips on a key -/

/-- An instruction that skips on a key tests the key its register names, and takes `KeyIndex` when the register
names none (R205, R206, decision D6); `c` is the condition on the key. -/
theorem keySkip_answers {i : Instr} {s : State} {x : RegIdx} {c : Key → Bool}
    (answer : exec i s = orRaise (keyOf (s.reg x)) (.keyIndex (s.reg x)) s fun k => s.skipIf (c k)) :
    (∀ k : Key, k.val = (s.reg x).toNat → exec i s = .next (s.skipIf (c k))) ∧
    (15 < (s.reg x).toNat → exec i s = .next (s.raise (.keyIndex (s.reg x)))) := by
  rw [answer]
  exact ⟨fun k names => orRaise_eq_next.mpr (.inl ⟨k, keyOf_eq_some.mpr names, rfl⟩),
    fun beyond => orRaise_eq_next.mpr (.inr ⟨keyOf_eq_none.mpr beyond, rfl⟩)⟩

/-! ## The four cases of `LD Vx, K` (R208) -/

/-- What `LD Vx, K` leaves when it completes with the key `k` (R208). -/
def State.afterKey (s : State) (x : RegIdx) (k : Key) : State :=
  ((s.setReg x (keyByte k)).setWait .idle).advance

theorem State.reg_afterKey (s : State) (x : RegIdx) (k : Key) : (s.afterKey x k).reg x = keyByte k :=
  (s.reg_setReg x x (keyByte k)).trans (if_pos rfl)

theorem State.regsBut_afterKey (s : State) (x : RegIdx) (k : Key) : RegsBut [x] s (s.afterKey x k) :=
  s.regsBut_setReg x (keyByte k)

theorem State.sameBut_afterKey (s : State) (x : RegIdx) (k : Key) :
    SameBut [.regs, .wait, .pc] s (s.afterKey x k) :=
  ((s.sameBut_setReg x (keyByte k)).trans (State.sameBut_setWait _ .idle)).trans (State.sameBut_setPc _ _)

section waiting
variable {s : State} {k : Key} (x : RegIdx)

theorem exec_ldVxK_of_no_key (idle : s.wait = .idle) (noKey : s.firstKey = none) :
    exec (.ldVxK x) s = .next s := by
  simp only [exec, execLdVxK, idle, noKey]

theorem exec_ldVxK_of_first_key (idle : s.wait = .idle) (first : s.firstKey = some k) :
    exec (.ldVxK x) s = .next (s.setWait (.latched k)) := by
  simp only [exec, execLdVxK, idle, first]

theorem exec_ldVxK_of_held (latched : s.wait = .latched k) (down : s.key k = true) :
    exec (.ldVxK x) s = .next s := by
  simp only [exec, execLdVxK, latched, down, if_true]

theorem exec_ldVxK_of_released (latched : s.wait = .latched k) (up : s.key k = false) :
    exec (.ldVxK x) s = .next (s.afterKey x k) := by
  simp only [exec, execLdVxK, latched, up, Bool.false_eq_true, if_false, State.afterKey]

end waiting

/-! ## The obligations -/

/-- Settles O21: both skips have the shape of `keySkip_answers`, on the key and on its negation. -/
theorem keySkipsReadTheKeypad : Obligations.KeySkipsReadTheKeypad := by
  refine ⟨fun w bits => decodeWord_skp (fieldOp_of_mask rfl bits) (fieldN_of_mask rfl bits),
    fun w bits => decodeWord_sknp (fieldOp_of_mask rfl bits) (fieldN_of_mask rfl bits), fun s x => ?_⟩
  obtain ⟨skpOnKey, skpFaults⟩ := keySkip_answers (i := .skp x) (s := s) rfl
  obtain ⟨sknpOnKey, sknpFaults⟩ := keySkip_answers (i := .sknp x) (s := s) rfl
  refine ⟨fun isKey => ⟨?_, ?_⟩, fun beyond => ⟨skpFaults beyond, sknpFaults beyond⟩⟩
  · exact skip_spec (skpOnKey ⟨_, isKey⟩ rfl) id id
  · exact skip_spec (sknpOnKey ⟨_, isKey⟩ rfl) (Bool.not_eq_true' _).mpr (Bool.not_eq_false' _).mpr

/-- Settles O23: one case of `LD Vx, K` for each clause, the lowest key down being what the scan finds. -/
theorem waitForKeyTransitions : Obligations.WaitForKeyTransitions := by
  refine ⟨fun w bits => decodeWord_ldVxK (fieldOp_of_mask rfl bits) (fieldNN_of_mask rfl bits),
    fun s x => ⟨fun idle allUp => ?_, fun k idle down lowerUp => ?_, fun k => exec_ldVxK_of_held x,
      fun k latched up => ?_⟩⟩
  · exact exec_ldVxK_of_no_key x idle (State.firstKey_eq_none.mpr allUp)
  · have first := State.firstKey_eq_some.mpr ⟨down, lowerUp⟩
    exact ⟨_, exec_ldVxK_of_first_key x idle first, rfl, s.sameBut_setWait _⟩
  · have loaded : ((s.afterKey x k).reg x).toNat = k.val := by rw [State.reg_afterKey, keyByte_toNat]
    exact ⟨_, exec_ldVxK_of_released x latched up, loaded, rfl, s.regsBut_afterKey x k, rfl,
      s.sameBut_afterKey x k⟩

/-- Settles O22: `LD Vx, DT` has the shape of `load_spec`; the other two update one timer and then `PC`. -/
theorem timerLoads : Obligations.TimerLoads := by
  refine ⟨fun w bits => decodeWord_ldVxDT (fieldOp_of_mask rfl bits) (fieldNN_of_mask rfl bits),
    fun w bits => decodeWord_ldDTVx (fieldOp_of_mask rfl bits) (fieldNN_of_mask rfl bits),
    fun w bits => decodeWord_ldSTVx (fieldOp_of_mask rfl bits) (fieldNN_of_mask rfl bits),
    fun s x => ⟨load_spec rfl fun _ => id, ?_, ?_⟩⟩
  · exact ⟨_, rfl, rfl, rfl, (s.sameBut_setDt _).trans (State.sameBut_setPc _ _)⟩
  · exact ⟨_, rfl, rfl, rfl, (s.sameBut_setSt _).trans (State.sameBut_setPc _ _)⟩

end Sys2Proof.Machine
end

section
/-! PROOFS. Fault entry and the host's events (spec/60_exceptions.md R231, R241 to R245): no event changes `FAULT`
but by `State.raise`, `RESET` left out, and what the tick, the key events and `END_FRAME` do to a running core. -/

namespace Sys2Proof.Machine

/-! ## Fault entry -/

/-- An outcome from `s` keeps `FAULT`, or is `s` with a fault raised (R231). -/
def FaultEntry (s : State) (o : Host.Outcome State Fault Refusal) : Prop :=
  ∀ t, o = .next t → t.fault = s.fault ∨ ∃ f, t = s.raise f

theorem FaultEntry.next {s u : State} (kept : u.fault = s.fault) : FaultEntry s (.next u) := by
  rintro t ⟨⟩
  exact .inl kept

theorem FaultEntry.raise (s : State) (f : Fault) : FaultEntry s (.next (s.raise f)) := by
  rintro t ⟨⟩
  exact .inr ⟨f, rfl⟩

/-- The operation that tests the fault condition comes first, so only what follows its success must keep `FAULT`. -/
theorem FaultEntry.orRaise {α : Type} {r : Option α} {f : Fault} {s : State} {k : α → State}
    (kept : ∀ a, r = some a → (k a).fault = s.fault) : FaultEntry s (orRaise r f s k) := by
  cases r with
  | none => exact FaultEntry.raise s f
  | some a => exact FaultEntry.next (kept a rfl)

theorem FaultEntry.whenRunning {s u : State} (running : FaultEntry s (.next u)) :
    FaultEntry s (.next (s.whenRunning u)) := by
  cases h : s.fault with
  | none => rwa [State.whenRunning_running u h]
  | some f => rw [State.whenRunning_stopped u h]; exact FaultEntry.next rfl

theorem execLdVxK_faultEntry (x : RegIdx) (s : State) : FaultEntry s (exec (.ldVxK x) s) := by
  cases waiting : s.wait with
  | idle =>
    cases first : s.firstKey with
    | none => rw [exec_ldVxK_of_no_key x waiting first]; exact FaultEntry.next rfl
    | some k => rw [exec_ldVxK_of_first_key x waiting first]; exact FaultEntry.next rfl
  | latched k =>
    cases down : s.key k with
    | true => rw [exec_ldVxK_of_held x waiting down]; exact FaultEntry.next rfl
    | false => rw [exec_ldVxK_of_released x waiting down]; exact FaultEntry.next rfl

/-- No instruction writes `FAULT` but by raising a fault on the state it started from (R231). -/
theorem exec_faultEntry (i : Instr) (s : State) : FaultEntry s (exec i s) := by
  cases i with
  | ret => exact FaultEntry.orRaise fun _ popped => State.sameBut_of_pop popped .fault (by decide)
  | call _ => exact FaultEntry.orRaise fun _ pushed => State.sameBut_of_push pushed .fault (by decide)
  | skp _ | sknp _ => exact FaultEntry.orRaise fun _ _ => s.skipIf_fault _
  | drw _ _ _ | ldB _ | storeRegs _ | loadRegs _ => exact FaultEntry.orRaise fun _ _ => rfl
  | seImm _ _ | sneImm _ _ | seReg _ _ | sneReg _ _ => exact FaultEntry.next (s.skipIf_fault _)
  | ldVxK x => exact execLdVxK_faultEntry x s
  | _ => exact FaultEntry.next rfl

theorem cycle_faultEntry (s : State) : FaultEntry s (cycle s) := by
  obtain ⟨-, answer⟩ | ⟨-, -, answer⟩ | ⟨-, -, -, answer⟩ | ⟨-, -, -, -, -, answer⟩ | ⟨-, i, -, -, -, -, answer⟩ :=
    cycle_cases s
  all_goals rw [answer]
  · exact FaultEntry.next rfl
  · exact FaultEntry.next rfl
  · exact FaultEntry.raise s _
  · exact FaultEntry.next rfl
  · exact exec_faultEntry i s

theorem loadRom_faultEntry (bytes : List Byte) (s : State) : FaultEntry s (.next (loadRom bytes s)) := by
  apply FaultEntry.whenRunning
  split
  · exact FaultEntry.raise s _
  · exact FaultEntry.next rfl

theorem applyEvent_faultEntry {e : Event} (notReset : e ≠ .reset) (s : State) : FaultEntry s (applyEvent e s) := by
  cases e with
  | reset => exact absurd rfl notReset
  | cycle => exact cycle_faultEntry s
  | loadRom bytes => exact loadRom_faultEntry bytes s
  | snapshot => exact FaultEntry.next rfl
  | loadFont => exact FaultEntry.whenRunning (FaultEntry.next (s.setMem_fault _))
  | timerTick | keyPress _ | keyRelease _ | endFrame => exact FaultEntry.whenRunning (FaultEntry.next rfl)

/-- The frozen core, its cause unnamed (R233). -/
theorem applyEvent_of_not_running {e : Event} {s : State} (stopped : s.fault ≠ none) (notReset : e ≠ .reset) :
    applyEvent e s = .next s := by
  obtain ⟨f, stoppedBy⟩ := Option.ne_none_iff_exists'.mp stopped
  exact applyEvent_of_stopped stoppedBy notReset

/-- Settles O31: a stopped core answers its own state, so a change of `FAULT` is a fault raised on a running one. -/
theorem faultEntryIsPrecise : Obligations.FaultEntryIsPrecise := by
  intro e s t notReset answer changed
  refine ⟨Decidable.byContradiction fun stopped => ?_,
    (applyEvent_faultEntry notReset s t answer).resolve_left changed⟩
  rw [applyEvent_of_not_running stopped notReset] at answer
  exact changed (congrArg State.fault (Host.Outcome.next.inj answer).symm)

/-! ## The tick, the keys and the frame -/

/-- Clamped at 0, as the truncated subtraction is (R241). -/
theorem decTimer_toNat (b : Byte) : (decTimer b).toNat = b.toNat - 1 := by
  rw [decTimer]
  split
  next zero => rw [zero]; rfl
  next nonzero =>
    have positive : 1#8 ≤ b := by bv_omega
    exact BitVec.toNat_sub_of_le positive

theorem State.sameBut_setKey (s : State) (k : Key) (b : Bool) : SameBut [.keys] s (s.setKey k b) := by
  intro p unlisted
  cases p with
  | keys => exact absurd (List.mem_singleton_self _) unlisted
  | regs | mem => exact fun _ => rfl
  | _ => exact rfl

/-- A host event that answers `u` on a running core. -/
theorem next_whenRunning {s : State} (running : s.fault = none) (u : State) :
    (.next (s.whenRunning u) : Host.Outcome State Fault Refusal) = .next u :=
  congrArg Host.Outcome.next (State.whenRunning_running u running)

/-- An event whose answer is one write of a key changes that key and no other (R242, R243). -/
theorem keyWrite_spec {e : Event} {s : State} {k : Key} {b : Bool} (answer : applyEvent e s = .next (s.setKey k b)) :
    ∃ t, applyEvent e s = .next t ∧ t.key k = b ∧ (∀ j, j ≠ k → t.key j = s.key j) ∧ SameBut [.keys] s t :=
  ⟨_, answer, (s.key_setKey k k b).trans (if_pos rfl), fun j other => (s.key_setKey k j b).trans (if_neg other),
    s.sameBut_setKey k b⟩

/-- Settles O38: the tick is one update of each timer, and a stopped core takes no event but `RESET`. -/
theorem timerTickDecrementsClamped : Obligations.TimerTickDecrementsClamped := by
  refine fun s => ⟨fun running => ?_, fun stopped => applyEvent_of_not_running stopped Event.noConfusion⟩
  exact ⟨_, next_whenRunning running _, decTimer_toNat s.dt, decTimer_toNat s.st,
    (s.sameBut_setDt _).trans (State.sameBut_setSt _ _)⟩

/-- Settles O40: each of the three events is one write on a running core, and `SNAPSHOT` is none on any. -/
theorem keyAndFrameEvents : Obligations.KeyAndFrameEvents := by
  refine fun s => ⟨fun running => ⟨fun k => ?_, fun k => ?_, ?_⟩, fun stopped => ?_, rfl, rfl⟩
  · exact keyWrite_spec (next_whenRunning running (s.setKey k true))
  · exact keyWrite_spec (next_whenRunning running (s.setKey k false))
  · exact ⟨_, next_whenRunning running _, rfl, s.sameBut_setDrawFlag false⟩
  · exact ⟨applyEvent_of_not_running stopped Event.noConfusion, fun _ =>
      ⟨applyEvent_of_not_running stopped Event.noConfusion, applyEvent_of_not_running stopped Event.noConfusion⟩⟩

end Sys2Proof.Machine
end

section
/-! PROOFS. The loads and `RESET` (spec/70_reset_and_hazards.md R260 to R262): a load that goes through writes one
block of memory, and the state after `RESET` holds every value of R36. -/

namespace Sys2Proof.Machine

/-! ## The loads -/

/-- An event whose answer is one block write puts the block in memory and changes nothing else (R261, R262). -/
theorem blockWrite_spec {e : Event} {s : State} {a : Nat} {bs : List Byte}
    (answer : applyEvent e s = .next (s.setMem (memPuts s.mem a bs))) :
    ∃ t, applyEvent e s = .next t ∧ (∀ j < bs.length, t.byte (a + j) = bs.getD j 0x00#8) ∧
      BytesBut a bs.length s t ∧ SameBut [.mem] s t :=
  ⟨_, answer, fun _ inside => memByte_memPuts_add s.mem a inside, s.bytesBut_setMem_memPuts a bs, s.sameBut_setMem _⟩

/-- A ROM that fits below the end of memory is written at 0x200 (R262). -/
theorem loadRom_of_fits {s : State} {bytes : List Byte} (running : s.fault = none) (fits : bytes.length ≤ 3584) :
    loadRom bytes s = s.setMem (memPuts s.mem 0x200 bytes) :=
  (State.whenRunning_running _ running).trans (if_neg (Nat.not_lt_of_le fits))

/-- A longer ROM raises the fault and is not written (R262, decision D19). -/
theorem loadRom_of_too_large {s : State} {bytes : List Byte} (running : s.fault = none)
    (tooLarge : 3584 < bytes.length) : loadRom bytes s = s.raise (.romTooLarge bytes.length) :=
  (State.whenRunning_running _ running).trans (if_pos tooLarge)

/-! ## The reset values -/

/-- Sixteen glyphs of five bytes (R52). -/
theorem font_length : font.length = 80 := rfl

/-- Past the font the reset contents are zeros (R36, decision D7). -/
theorem resetByte_of_le {a : Nat} (pastFont : 80 ≤ a) : resetByte a = 0x00#8 := by
  rw [resetByte, List.getD_eq_getElem?_getD, List.getElem?_eq_none (font_length ▸ pastFont), Option.getD_none]

theorem State.reg_reset (x : RegIdx) : State.reset.reg x = 0x00#8 :=
  Vector.getElem_replicate x.isLt

theorem State.key_reset (k : Key) : State.reset.key k = false :=
  Vector.getElem_replicate k.isLt

/-- The rows of R36 at the state after reset; its memory lists no cell, so it reads as the reset contents. -/
theorem State.reset_hasResetValues : State.reset.HasResetValues :=
  ⟨rfl, fun _ _ => rfl, fun _ => resetByte_of_le, State.reg_reset, rfl, rfl, fun _ => List.eq_of_mem_replicate, rfl,
    rfl, State.key_reset, pixel_clearFb, rfl, rfl, rfl⟩

/-- `RESET` differs from the state after reset in the quirk flags and the model's own fields alone, of which R36's
rows say nothing (R260). -/
theorem resetCore_hasResetValues (s : State) : (resetCore s).HasResetValues := State.reset_hasResetValues

/-! ## The obligations -/

/-- Settles O42: on a running core the answer is one write of the font's 80 bytes at 0. -/
theorem loadFontRestoresTheFont : Obligations.LoadFontRestoresTheFont := by
  refine fun s => ⟨fun running => ?_, fun stopped => applyEvent_of_not_running stopped Event.noConfusion⟩
  obtain ⟨t, answer, written, frame⟩ := blockWrite_spec (e := .loadFont) (next_whenRunning running _)
  rw [font_length] at written frame
  exact ⟨t, answer, fun a inFont => (congrArg t.byte (Nat.zero_add a)).symm.trans (written a inFont), frame⟩

/-- Settles O43: the length decides between one write of the whole ROM and the fault. -/
theorem loadRomCopiesOrFaults : Obligations.LoadRomCopiesOrFaults := by
  refine fun s bytes => ⟨fun running fits => ?_, fun running tooLarge => ?_,
    fun stopped => applyEvent_of_not_running stopped Event.noConfusion⟩
  · have answer : applyEvent (.loadRom bytes) s = .next (s.setMem (memPuts s.mem 0x200 bytes)) :=
      congrArg Host.Outcome.next (loadRom_of_fits running fits)
    obtain ⟨t, answered, written, frame⟩ := blockWrite_spec answer
    exact ⟨t, answered, fun j inside => (written j inside).trans (List.getElem_eq_getD 0x00#8).symm, frame⟩
  · exact congrArg Host.Outcome.next (loadRom_of_too_large running tooLarge)

/-- Settles O44: `RESET` reads nothing of the state but what it keeps, and a stopped core answers any other event
with itself, its `FAULT` included. -/
theorem resetGivesTheResetValues : Obligations.ResetGivesTheResetValues := by
  refine fun s => ⟨⟨resetCore s, rfl, resetCore_hasResetValues s, rfl, rfl⟩, fun e t stopped answer cleared => ?_⟩
  refine Decidable.byContradiction fun notReset => ?_
  have unchanged : s = t :=
    Host.Outcome.next.inj ((applyEvent_of_not_running stopped notReset).symm.trans answer)
  exact stopped (unchanged ▸ cleared)

end Sys2Proof.Machine
end

section
/-! PROOFS. The decoder and the encoder as a whole (spec/30_encoding.md R70 to R83): the decoder on an encoded word,
the row of the opcode table a decoded word lies in, that no two rows share a word, and the words no row has. -/

namespace Sys2Proof

/-! ## Decoding what was encoded -/

theorem decodeWord_rnd {w : Word} (op : fieldOp w = 0xC#4) : decodeWord w = .instr (.rnd (fieldX w) (fieldNN w)) := by
  simp only [decodeWord, op]

/-- Every field of the canonical word is the operand it was built from; one case per format and family (R72). -/
theorem decodeWord_encode (i : Instr) : decodeWord (encode i) = .instr i := by
  cases i with
  | cls | ret => decide
  | jp _ | call _ | ldI _ | jpV0 _ => simp only [encode, decodeWord, fieldOp_formatA, fieldNNN_formatA]
  | seImm _ _ | sneImm _ _ | ldImm _ _ | addImm _ _ | rnd _ _ =>
    simp only [encode, decodeWord, fieldOp_formatXK, fieldX_formatXK, fieldNN_formatXK]
  | seReg _ _ | sneReg _ _ | drw _ _ _ =>
    simp only [encode, decodeWord, fieldOp_formatXYN, fieldX_formatXYN, fieldY_formatXYN, fieldN_formatXYN]
  | ldReg _ _ | orReg _ _ | andReg _ _ | xorReg _ _ | addReg _ _ | sub _ _ | subn _ _ | shr _ _ | shl _ _ =>
    simp only [encode, decodeWord, decode8, fieldOp_formatXYN, fieldX_formatXYN, fieldY_formatXYN, fieldN_formatXYN]
  | skp _ | sknp _ => simp only [encode, decodeWord, decodeE, fieldOp_formatXK, fieldX_formatXK, fieldN_formatXK]; rfl
  | ldVxDT _ | ldVxK _ | ldDTVx _ | ldSTVx _ | addI _ | ldF _ | ldB _ | storeRegs _ | loadRegs _ =>
    simp only [encode, decodeWord, decodeF, fieldOp_formatXK, fieldX_formatXK, fieldNN_formatXK]

/-- Two bytes that are an instruction's word decode to it, with the bytes after them left over (R53, R70). -/
theorem decode_of_decodeWord {hi lo : Byte} {i : Instr} (rest : List Byte)
    (decoded : decodeWord (wordOfBytes hi lo) = .instr i) : decode (hi :: lo :: rest) = .instr i rest := by
  simp only [decode, decoded]

/-- Settles O49: the two bytes are the canonical word's, which decodes to the instruction. -/
theorem decodeInvertsEncode : Obligations.DecodeInvertsEncode := by
  intro i rest _
  exact decode_of_decodeWord rest ((congrArg decodeWord (wordOfBytes_bytes _)).trans (decodeWord_encode i))

/-- Settles O50: each word is run through the decoder. -/
theorem sampleWordsDecode : Obligations.SampleWordsDecode := by
  unfold Obligations.SampleWordsDecode
  decide

/-! ## The row of a decoded word -/

/-- What the mask of a row selected by `op` alone keeps (R73). -/
theorem and_F000_eq (w : Word) : w &&& 0xF000#16 = formatA (fieldOp w) 0x000#12 := by
  apply Laws.word_eq_of_bits
  simp [getLsbD_formatA, fieldOp]

/-- What the mask of a row selected by `op` and `n` keeps (R73). -/
theorem and_F00F_eq (w : Word) : w &&& 0xF00F#16 = formatXYN (fieldOp w) 0x0#4 0x0#4 (fieldN w) := by
  apply Laws.word_eq_of_bits
  simp [getLsbD_formatXYN, fieldOp, fieldN]

/-- What the mask of a row selected by `op` and `nn` keeps (R73). -/
theorem and_F0FF_eq (w : Word) : w &&& 0xF0FF#16 = formatXK (fieldOp w) 0x0#4 (fieldNN w) := by
  apply Laws.word_eq_of_bits
  simp [getLsbD_formatXK, fieldOp, fieldNN]

/-- A decoded word carries the bits its dispatch tested; one case per kind of dispatch (R73). -/
theorem selects_of_decodeWord {w : Word} {i : Instr} (decoded : decodeWord w = .instr i) :
    w &&& selectMask i = selectMatch i := by
  unfold decodeWord at decoded
  split at decoded
  case h_1 op | h_9 op | h_15 op =>
    simp only [decode0, decode8, decodeE] at decoded
    split at decoded <;> cases decoded
    all_goals exact (and_F00F_eq w).trans (by simp only [*]; rfl)
  case h_16 op =>
    unfold decodeF at decoded
    split at decoded <;> cases decoded
    all_goals exact (and_F0FF_eq w).trans (by simp only [*]; rfl)
  all_goals cases decoded
  all_goals exact (and_F000_eq w).trans (by simp only [*]; rfl)

/-- The bits dispatch tests depend on `op` alone (R73). -/
def maskOfOp (op : Nibble) : Word :=
  match op with
  | 0x0#4 | 0x8#4 | 0xE#4 => 0xF00F#16
  | 0xF#4 => 0xF0FF#16
  | _ => 0xF000#16

theorem selectMask_eq_maskOfOp (i : Instr) : selectMask i = maskOfOp (fieldOp (selectMatch i)) := by
  cases i <;> simp only [selectMask, selectMatch] <;> rfl

theorem selectMask_keeps_op (i : Instr) : (selectMask i).extractLsb' 12 4 = 0xF#4 := by
  cases i <;> rw [selectMask] <;> rfl

/-- The mask of the row a word lies in is that of the word's `op`. -/
theorem selectMask_of_selects {w : Word} {i : Instr} (selects : w &&& selectMask i = selectMatch i) :
    selectMask i = maskOfOp (fieldOp w) := by
  rw [fieldOp_of_mask (selectMask_keeps_op i) selects, selectMask_eq_maskOfOp]

/-- Settles O52: the mask of a word's row is that of the word's `op`, so two rows with the word have one mask, and the
bits of the word under it are the match of both. -/
theorem eachWordSelectsOneRow : Obligations.EachWordSelectsOneRow := by
  refine ⟨fun w i => selects_of_decodeWord, fun w i j selectsI selectsJ => ?_⟩
  have masks : selectMask i = selectMask j :=
    (selectMask_of_selects selectsI).trans (selectMask_of_selects selectsJ).symm
  exact ⟨masks, by rw [← selectsI, masks, selectsJ]⟩

/-! ## The words no row has -/

section unknown
variable {w : Word}

theorem decode0_eq_unknown : decode0 w = .unknown w ↔ fieldN w ∉ [0x0#4, 0xE#4] := by
  unfold decode0
  split <;> simp_all

theorem decode8_eq_unknown :
    decode8 w = .unknown w ↔ fieldN w ∈ [0x8#4, 0x9#4, 0xA#4, 0xB#4, 0xC#4, 0xD#4, 0xF#4] := by
  unfold decode8
  generalize fieldN w = n
  split <;> simp
  revert n
  decide

theorem decodeE_eq_unknown : decodeE w = .unknown w ↔ fieldN w ∉ [0x1#4, 0xE#4] := by
  unfold decodeE
  split <;> simp_all

theorem decodeF_eq_unknown : decodeF w = .unknown w ↔
    fieldNN w ∉ [0x07#8, 0x0A#8, 0x15#8, 0x18#8, 0x1E#8, 0x29#8, 0x33#8, 0x55#8, 0x65#8] := by
  unfold decodeF
  split <;> simp_all

end unknown

/-- Settles O51: only the four families with a second dispatch have words without a row, the other twelve values of
`op` selecting an instruction by themselves. -/
theorem unknownWordsAreThoseOfTheRule : Obligations.UnknownWordsAreThoseOfTheRule := by
  intro w
  change _ ↔ (fieldOp w = 0x0#4 ∧ fieldN w ∉ _) ∨ (fieldOp w = 0x8#4 ∧ fieldN w ∈ _) ∨
    (fieldOp w = 0xE#4 ∧ fieldN w ∉ _) ∨ (fieldOp w = 0xF#4 ∧ fieldNN w ∉ _)
  rw [← decode0_eq_unknown, ← decode8_eq_unknown, ← decodeE_eq_unknown, ← decodeF_eq_unknown]
  unfold decodeWord
  split
  case h_17 =>
    exfalso
    generalize fieldOp w = op at *
    revert op
    decide
  all_goals simp only [*]; simp

end Sys2Proof
end

section
/-! PROOFS. Everything an instruction and an event can do (spec/10_state.md R37; spec/60_exceptions.md R230, R231):
it completes and writes only its parts, or it raises a fault of the table under that fault's condition. What steps
answer, write and leave alone is read off these. -/

namespace Sys2Proof.Machine

/-- An outcome has one next state. -/
theorem eq_of_next {o : Host.Outcome State Fault Refusal} {s t : State} (first : o = .next s) (second : o = .next t) :
    s = t :=
  Host.Outcome.next.inj (first.symm.trans second)

/-! ## Frames -/

theorem SameBut.refl (ps : List Part) (s : State) : SameBut ps s s := by
  intro p _
  cases p with
  | regs | mem => exact fun _ => rfl
  | _ => exact rfl

theorem State.sameBut_raise (s : State) (f : Fault) : SameBut [.fault] s (s.raise f) := by
  intro p unlisted
  cases p with
  | fault => exact absurd (List.mem_singleton_self _) unlisted
  | regs | mem => exact fun _ => rfl
  | _ => exact rfl

theorem State.sameBut_countDraw (s : State) : SameBut [.draws] s s.countDraw := by
  intro p unlisted
  cases p with
  | draws => exact absurd (List.mem_singleton_self _) unlisted
  | regs | mem => exact fun _ => rfl
  | _ => exact rfl

/-- A register, the counter of draws and `PC`, the updates of `RND` (R147, log entry 1). -/
theorem State.sameBut_countDraw_advance (s : State) (x : RegIdx) (b : Byte) :
    SameBut [.regs, .pc, .draws] s (s.setReg x b).countDraw.advance :=
  (((s.sameBut_setReg x b).trans (State.sameBut_countDraw _)).trans (State.sameBut_setPc _ _)).mono (by decide)

theorem State.sameBut_setScript (s : State) (es : List Event) : SameBut [.script] s (s.setScript es) := by
  intro p unlisted
  cases p with
  | script => exact absurd (List.mem_singleton_self _) unlisted
  | regs | mem => exact fun _ => rfl
  | _ => exact rfl

/-! ## Completing or faulting -/

/-- An outcome from `s`: a next state that differs from it in the parts `ps` at most, or `s` itself with a fault
raised that `fails` allows. -/
def CompletesOrFaults (ps : List Part) (fails : Fault → Prop) (s : State) (o : Host.Outcome State Fault Refusal) :
    Prop :=
  (∃ t, o = .next t ∧ SameBut ps s t) ∨ ∃ f, o = .next (s.raise f) ∧ fails f

section outcome
variable {ps : List Part} {fails : Fault → Prop} {s t : State} {o : Host.Outcome State Fault Refusal}

theorem CompletesOrFaults.completes (frame : SameBut ps s t) : CompletesOrFaults ps fails s (.next t) :=
  .inl ⟨t, rfl, frame⟩

/-- The operation that tests the fault condition decides which of the two it is. -/
theorem CompletesOrFaults.orRaise {α : Type} {r : Option α} {f : Fault} {k : α → State}
    (frame : ∀ a, r = some a → SameBut ps s (k a)) (failed : r = none → fails f) :
    CompletesOrFaults ps fails s (orRaise r f s k) := by
  cases r with
  | some a => exact .completes (frame a rfl)
  | none => exact .inr ⟨f, rfl, failed rfl⟩

/-- A stopped core is left unchanged (R233). -/
theorem CompletesOrFaults.whenRunning (running : CompletesOrFaults ps fails s (.next t)) :
    CompletesOrFaults ps fails s (.next (s.whenRunning t)) := by
  cases h : s.fault with
  | none => rwa [State.whenRunning_running t h]
  | some f => rw [State.whenRunning_stopped t h]; exact .completes (SameBut.refl _ s)

theorem CompletesOrFaults.total (spec : CompletesOrFaults ps fails s o) : ∃ t, o = .next t := by
  obtain ⟨t, answer, -⟩ | ⟨f, answer, -⟩ := spec
  · exact ⟨t, answer⟩
  · exact ⟨_, answer⟩

theorem CompletesOrFaults.of_next (spec : CompletesOrFaults ps fails s o) (answer : o = .next t) :
    SameBut ps s t ∨ ∃ f, t = s.raise f ∧ fails f := by
  subst answer
  obtain ⟨_, ⟨⟩, frame⟩ | ⟨f, ⟨⟩, failed⟩ := spec
  · exact .inl frame
  · exact .inr ⟨f, rfl, failed⟩

/-- What is not written is the same, whether or not a fault is raised. -/
theorem CompletesOrFaults.sameBut {qs : List Part} (spec : CompletesOrFaults ps fails s o) (sub : ps ⊆ qs)
    (fault : .fault ∈ qs) (answer : o = .next t) : SameBut qs s t := by
  obtain frame | ⟨f, rfl, -⟩ := spec.of_next answer
  · exact frame.mono sub
  · exact (s.sameBut_raise f).mono (by simpa using fault)

/-- A fault that appears was raised. -/
theorem CompletesOrFaults.fails_of_fault {f : Fault} (spec : CompletesOrFaults ps fails s o) (kept : .fault ∉ ps)
    (running : s.fault = none) (answer : o = .next t) (faulted : t.fault = some f) : fails f := by
  obtain frame | ⟨g, rfl, failed⟩ := spec.of_next answer
  · have stillRunning : t.fault = none := Eq.trans (frame .fault kept) running
    exact absurd (faulted.symm.trans stillRunning) (Option.some_ne_none f)
  · exact Option.some.inj faulted ▸ failed

end outcome

/-! ## Instructions -/

/-- Everything an execution of `LD Vx, K` can do (R208). -/
theorem exec_ldVxK_cases (x : RegIdx) (s : State) :
    (s.wait = .idle ∧ s.firstKey = none ∧ exec (.ldVxK x) s = .next s) ∨
    (∃ k, s.wait = .idle ∧ s.firstKey = some k ∧ exec (.ldVxK x) s = .next (s.setWait (.latched k))) ∨
    (∃ k, s.wait = .latched k ∧ s.key k = true ∧ exec (.ldVxK x) s = .next s) ∨
    (∃ k, s.wait = .latched k ∧ s.key k = false ∧ exec (.ldVxK x) s = .next (s.afterKey x k)) := by
  cases waiting : s.wait with
  | idle =>
    cases first : s.firstKey with
    | none => exact .inl ⟨rfl, rfl, exec_ldVxK_of_no_key x waiting first⟩
    | some k => exact .inr (.inl ⟨k, rfl, rfl, exec_ldVxK_of_first_key x waiting first⟩)
  | latched k =>
    cases down : s.key k with
    | true => exact .inr (.inr (.inl ⟨k, rfl, down, exec_ldVxK_of_held x waiting down⟩))
    | false => exact .inr (.inr (.inr ⟨k, rfl, down, exec_ldVxK_of_released x waiting down⟩))

/-- The fault an instruction may raise, with its information word, and the condition under which it does (R230). -/
def State.FaultsWith (s : State) (i : Instr) (f : Fault) : Prop :=
  match i with
  | .ret => f = .stackUnderflow s.pc ∧ s.sp.val = 0
  | .call _ => f = .stackOverflow s.pc ∧ s.sp.val = 16
  | .drw _ _ n => f = .memBounds s.i ∧ 0 < n.toNat ∧ 4096 < s.i.toNat + n.toNat
  | .ldB _ => f = .memBounds s.i ∧ 4096 < s.i.toNat + 3
  | .storeRegs x | .loadRegs x => f = .memBounds s.i ∧ 4096 < s.i.toNat + x.toNat + 1
  | .skp x | .sknp x => f = .keyIndex (s.reg x) ∧ 15 < (s.reg x).toNat
  | _ => False

/-- Every instruction completes and writes only its parts (R37), or raises its fault (R231). -/
theorem exec_spec (i : Instr) (s : State) : CompletesOrFaults (writesOf i) (s.FaultsWith i) s (exec i s) := by
  cases i with
  | cls => exact .completes ((s.sameBut_setFb _).trans (State.sameBut_setPc _ _))
  | ret =>
    exact .orRaise (fun _ popped => (State.sameBut_of_pop popped).trans (State.sameBut_setPc _ _))
      fun empty => ⟨rfl, State.pop_eq_none.mp empty⟩
  | call _ =>
    exact .orRaise (fun _ pushed => (State.sameBut_of_push pushed).trans (State.sameBut_setPc _ _))
      fun full => ⟨rfl, State.push_eq_none.mp full⟩
  | jp _ | jpV0 _ => exact .completes (s.sameBut_setPc _)
  | seImm _ _ | sneImm _ _ | seReg _ _ | sneReg _ _ => exact .completes (s.sameBut_skipIf _)
  | ldImm _ _ | addImm _ _ | ldReg _ _ | ldVxDT _ =>
    exact .completes ((s.sameBut_setReg _ _).trans (State.sameBut_setPc _ _))
  | orReg _ _ | andReg _ _ | xorReg _ _ | addReg _ _ | sub _ _ | subn _ _ | shr _ _ | shl _ _ =>
    exact .completes ((s.sameBut_setResultAndFlag _ _ _).trans (State.sameBut_setPc _ _))
  | rnd x _ => exact .completes (s.sameBut_countDraw_advance x _)
  | ldI _ | addI _ | ldF _ => exact .completes (s.sameBut_setI_advance _)
  | drw _ _ _ => exact .orRaise (fun _ _ => s.sameBut_afterDraw _) fun beyond => ⟨rfl, memRead_eq_none.mp beyond⟩
  | skp _ | sknp _ =>
    exact .orRaise (fun _ _ => s.sameBut_skipIf _) fun noKey => ⟨rfl, keyOf_eq_none.mp noKey⟩
  | ldVxK x =>
    obtain ⟨-, -, answer⟩ | ⟨k, -, -, answer⟩ | ⟨k, -, -, answer⟩ | ⟨k, -, -, answer⟩ := exec_ldVxK_cases x s <;>
      rw [answer]
    · exact .completes (SameBut.refl _ s)
    · exact .completes ((s.sameBut_setWait _).mono (by simp [writesOf]))
    · exact .completes (SameBut.refl _ s)
    · exact .completes (s.sameBut_afterKey x k)
  | ldDTVx _ => exact .completes ((s.sameBut_setDt _).trans (State.sameBut_setPc _ _))
  | ldSTVx _ => exact .completes ((s.sameBut_setSt _).trans (State.sameBut_setPc _ _))
  | ldB _ =>
    exact .orRaise (fun _ _ => (s.sameBut_setMem _).trans (State.sameBut_setPc _ _))
      fun beyond => ⟨rfl, (memWrite_eq_none.mp beyond).2⟩
  | storeRegs x =>
    refine .orRaise (fun _ _ => (s.sameBut_setMem _).trans (State.sameBut_setI_advance _ _)) fun beyond => ⟨rfl, ?_⟩
    have outside := (memWrite_eq_none.mp beyond).2
    rwa [State.regsUpTo_length] at outside
  | loadRegs _ =>
    exact .orRaise (fun _ _ => (s.sameBut_loadRegList _).trans (State.sameBut_setI_advance _ _))
      fun beyond => ⟨rfl, (memRead_eq_none.mp beyond).2⟩

/-! ## Events -/

/-- What a host event writes on a running core (R241 to R245, R260 to R262); a `CYCLE` writes what its instruction
does. -/
def hostWrites : Event → List Part
  | .reset => [.regs, .index, .pc, .stack, .sp, .dt, .st, .keys, .fb, .drawFlag, .wait, .fault, .mem]
  | .loadFont => [.mem]
  | .loadRom _ => [.mem]
  | .timerTick => [.dt, .st]
  | .keyPress _ => [.keys]
  | .keyRelease _ => [.keys]
  | .endFrame => [.drawFlag]
  | .cycle => []
  | .snapshot => []

theorem sameBut_resetCore (s : State) : SameBut (hostWrites .reset) s (resetCore s) := by
  intro p unlisted
  cases p with
  | displayWait | clipOnDraw | draws | script => exact rfl
  | _ => exact absurd (by decide) unlisted

/-- Every host event completes and writes only its parts, or is a ROM that does not fit (R262). -/
theorem hostEvent_spec {e : Event} (host : e ≠ .cycle) (s : State) :
    CompletesOrFaults (hostWrites e)
      (fun f => ∃ bytes, e = .loadRom bytes ∧ 3584 < bytes.length ∧ f = .romTooLarge bytes.length) s
      (applyEvent e s) := by
  cases e with
  | cycle => exact absurd rfl host
  | reset => exact .completes (sameBut_resetCore s)
  | snapshot => exact .completes (SameBut.refl _ s)
  | loadFont => exact .whenRunning (.completes (s.sameBut_setMem _))
  | timerTick => exact .whenRunning (.completes ((s.sameBut_setDt _).trans (State.sameBut_setSt _ _)))
  | keyPress _ | keyRelease _ => exact .whenRunning (.completes (s.sameBut_setKey _ _))
  | endFrame => exact .whenRunning (.completes (s.sameBut_setDrawFlag _))
  | loadRom bytes =>
    apply CompletesOrFaults.whenRunning
    split
    next tooLarge => exact .inr ⟨_, rfl, bytes, rfl, tooLarge, rfl⟩
    next => exact .completes (s.sameBut_setMem _)

/-- What a `CYCLE` can do: nothing, take `FetchBounds`, or execute an instruction (R100). -/
theorem cycle_answers (s : State) :
    cycle s = .next s ∨
    (s.fault = none ∧ 0xFFE < s.pc.toNat ∧ cycle s = .next (s.raise (.fetchBounds s.pc))) ∨
    ∃ i, s.Executes i ∧ cycle s = exec i s := by
  obtain ⟨-, answer⟩ | ⟨-, -, answer⟩ | ⟨running, -, noWord, answer⟩ | ⟨-, -, -, -, -, answer⟩ |
    ⟨w, i, running, gate, fetched, decoded, answer⟩ := cycle_cases s
  · exact .inl answer
  · exact .inl answer
  · exact .inr (.inl ⟨running, State.fetch_eq_none.mp noWord, answer⟩)
  · exact .inl answer
  · exact .inr (.inr ⟨i, ⟨running, gate, w, fetched, decoded⟩, answer⟩)

/-- The parts a step may write: all but the quirk flags and the host's script. -/
def coreParts : List Part :=
  [.regs, .index, .pc, .stack, .sp, .dt, .st, .keys, .fb, .drawFlag, .wait, .fault, .mem, .draws]

theorem writesOf_subset_coreParts (i : Instr) : writesOf i ⊆ coreParts := by
  cases i <;> simp [writesOf, coreParts]

/-- No instruction writes `FAULT` when it completes (R231). -/
theorem fault_not_mem_writesOf (i : Instr) : .fault ∉ writesOf i := by
  cases i <;> simp [writesOf]

theorem hostWrites_subset_coreParts (e : Event) : hostWrites e ⊆ coreParts := by
  cases e <;> simp [hostWrites, coreParts]

/-- No host event but `RESET` writes `FAULT` when it completes (R231). -/
theorem fault_not_mem_hostWrites {e : Event} (notReset : e ≠ .reset) : .fault ∉ hostWrites e := by
  cases e with
  | reset => exact absurd rfl notReset
  | _ => simp [hostWrites]

theorem cycle_sameBut {s t : State} (answer : cycle s = .next t) : SameBut coreParts s t := by
  obtain same | ⟨-, -, fault⟩ | ⟨i, -, executed⟩ := cycle_answers s
  · obtain rfl := eq_of_next same answer
    exact SameBut.refl _ s
  · obtain rfl := eq_of_next fault answer
    exact (s.sameBut_raise _).mono (by decide)
  · exact (exec_spec i s).sameBut (writesOf_subset_coreParts i) (by decide) (executed.symm.trans answer)

theorem applyEvent_sameBut {e : Event} {s t : State} (answer : applyEvent e s = .next t) :
    SameBut coreParts s t := by
  by_cases cycles : e = .cycle
  · subst cycles
    exact cycle_sameBut answer
  · exact (hostEvent_spec cycles s).sameBut (hostWrites_subset_coreParts e) (by decide) answer

/-- Behind a closed gate a `CYCLE` does nothing, stopped core or not (R101, R102). -/
theorem cycle_of_closed {s : State} (closed : s.gateClosed = true) : cycle s = .next s := by
  cases fault : s.fault with
  | none => exact cycle_of_gateClosed fault closed
  | some f => exact cycle_of_stopped fault

/-- What the host can write while the gate is closed and neither `END_FRAME` nor `RESET` comes (R270). -/
theorem applyEvent_sameBut_of_closed {e : Event} {s t : State} (closed : s.gateClosed = true)
    (allowed : e ≠ .endFrame ∧ e ≠ .reset) (answer : applyEvent e s = .next t) :
    SameBut [.dt, .st, .keys, .mem, .fault] s t := by
  by_cases cycles : e = .cycle
  · subst cycles
    obtain rfl := eq_of_next (cycle_of_closed closed) answer
    exact SameBut.refl _ s
  · refine (hostEvent_spec cycles s).sameBut ?_ (by decide) answer
    cases e with
    | endFrame => exact absurd rfl allowed.1
    | reset => exact absurd rfl allowed.2
    | _ => simp [hostWrites]

/-! ## Sequences of events -/

theorem applyEvents_cons {e : Event} {es : List Event} {s t : State} (answer : applyEvent e s = .next t) :
    applyEvents (e :: es) s = applyEvents es t := by
  rw [applyEvents, answer]

/-- A sequence answers a next state when its first event does and the rest does from there. -/
theorem applyEvents_cons_eq_next {e : Event} {es : List Event} {s u : State} :
    applyEvents (e :: es) s = .next u ↔ ∃ t, applyEvent e s = .next t ∧ applyEvents es t = .next u := by
  rw [applyEvents]
  cases applyEvent e s <;> simp

/-! ## The obligations -/

/-- Settles O33: an instruction and a host event complete or raise a fault, and a `CYCLE` does nothing, raises a fault
or executes an instruction. -/
theorem everyStepAnswersANextState : Obligations.EveryStepAnswersANextState := by
  have execTotal (i : Instr) (s : State) : ∃ t, exec i s = .next t := (exec_spec i s).total
  have eventTotal (e : Event) (s : State) : ∃ t, applyEvent e s = .next t := by
    by_cases cycles : e = .cycle
    · subst cycles
      obtain answer | ⟨-, -, answer⟩ | ⟨i, -, answer⟩ := cycle_answers s
      · exact ⟨_, answer⟩
      · exact ⟨_, answer⟩
      · obtain ⟨t, executed⟩ := execTotal i s
        exact ⟨t, answer.trans executed⟩
    · exact (hostEvent_spec cycles s).total
  exact ⟨execTotal, eventTotal, fun s => eventTotal _ _⟩

/-- Settles O34: an instruction that raises a fault and leaves `FAULT` as it was changes nothing at all. -/
theorem instructionsWriteOnlyTheirParts : Obligations.InstructionsWriteOnlyTheirParts := by
  intro i s t answer kept
  obtain frame | ⟨f, rfl, -⟩ := (exec_spec i s).of_next answer
  · exact frame
  · intro p _
    by_cases fault : p = .fault
    · exact fault ▸ kept
    · exact s.sameBut_raise f p (by simpa using fault)

/-- Settles O46: no instruction and no host event writes the quirk flags. -/
theorem quirkFlagsNeverChange : Obligations.QuirkFlagsNeverChange := by
  intro s t answer
  have frame : SameBut coreParts s.takeEvent t := applyEvent_sameBut answer
  exact ⟨frame .displayWait (by decide), frame .clipOnDraw (by decide)⟩

/-- Settles O29: the gate is still closed after each event, since neither `DISPLAY_WAIT` nor `DRAW_FLAG` is written. -/
theorem closedGateHoldsUntilEndFrame : Obligations.ClosedGateHoldsUntilEndFrame := by
  intro es
  induction es with
  | nil =>
    rintro s t - drawn - ⟨⟩
    exact ⟨drawn, SameBut.refl _ s⟩
  | cons e es ih =>
    intro s u on drawn allowed answer
    rw [List.forall_mem_cons] at allowed
    obtain ⟨t, first, rest⟩ := applyEvents_cons_eq_next.mp answer
    have frame := applyEvent_sameBut_of_closed (State.gateClosed_eq_true.mpr ⟨on, drawn⟩) allowed.1 first
    obtain ⟨stillDrawn, restFrame⟩ := ih t u (Eq.trans (frame .displayWait (by decide)) on)
      (Eq.trans (frame .drawFlag (by decide)) drawn) allowed.2 rest
    exact ⟨stillDrawn, (frame.trans restFrame).mono (by decide)⟩

/-- Settles O32: the fault is the fetch's, the executed instruction's, or that of a ROM too large. -/
theorem faultsAreThoseOfTheTable : Obligations.FaultsAreThoseOfTheTable := by
  intro e s t f running answer faulted
  by_cases cycles : e = .cycle
  · subst cycles
    obtain same | ⟨-, beyond, fault⟩ | ⟨i, executes, executed⟩ := cycle_answers s
    · obtain rfl := eq_of_next same answer
      exact absurd (running.symm.trans faulted) (Option.some_ne_none f).symm
    · obtain rfl := eq_of_next fault answer
      obtain rfl := Option.some.inj faulted
      exact .inr (.inr (.inr (.inl ⟨rfl, rfl, beyond, rfl⟩)))
    have fails : s.FaultsWith i f :=
      (exec_spec i s).fails_of_fault (fault_not_mem_writesOf i) running (executed.symm.trans answer) faulted
    cases i with
    | call nnn =>
      obtain ⟨rfl, full⟩ := fails
      exact .inl ⟨rfl, rfl, ⟨nnn, executes⟩, full, rfl⟩
    | ret =>
      obtain ⟨rfl, empty⟩ := fails
      exact .inr (.inl ⟨rfl, rfl, executes, empty, rfl⟩)
    | drw x y n =>
      obtain ⟨rfl, rows, beyond⟩ := fails
      exact .inr (.inr (.inl ⟨rfl, rfl, rfl, .inl ⟨x, y, n, executes, rows, beyond⟩⟩))
    | ldB x =>
      obtain ⟨rfl, beyond⟩ := fails
      exact .inr (.inr (.inl ⟨rfl, rfl, rfl, .inr (.inl ⟨x, executes, beyond⟩)⟩))
    | storeRegs x =>
      obtain ⟨rfl, beyond⟩ := fails
      exact .inr (.inr (.inl ⟨rfl, rfl, rfl, .inr (.inr ⟨x, .inl executes, beyond⟩)⟩))
    | loadRegs x =>
      obtain ⟨rfl, beyond⟩ := fails
      exact .inr (.inr (.inl ⟨rfl, rfl, rfl, .inr (.inr ⟨x, .inr executes, beyond⟩)⟩))
    | skp x =>
      obtain ⟨rfl, noKey⟩ := fails
      exact .inr (.inr (.inr (.inr (.inl ⟨rfl, rfl, x, .inl executes, noKey, rfl⟩))))
    | sknp x =>
      obtain ⟨rfl, noKey⟩ := fails
      exact .inr (.inr (.inr (.inr (.inl ⟨rfl, rfl, x, .inr executes, noKey, rfl⟩))))
    | _ => exact fails.elim
  · have fails : ∃ bytes, e = .loadRom bytes ∧ 3584 < bytes.length ∧ f = .romTooLarge bytes.length := by
      by_cases resets : e = .reset
      · subst resets
        obtain rfl := Host.Outcome.next.inj answer
        exact absurd faulted.symm (Option.some_ne_none f)
      · exact (hostEvent_spec cycles s).fails_of_fault (fault_not_mem_hostWrites resets) running answer faulted
    obtain ⟨bytes, rfl, tooLarge, rfl⟩ := fails
    exact .inr (.inr (.inr (.inr (.inr ⟨rfl, bytes, rfl, tooLarge, rfl⟩))))

end Sys2Proof.Machine
end

section
/-! PROOFS. The invariants (spec/10_state.md R31, R38; spec/20_memory.md R50): memory in canonical form with `PC` and
the stack entries in their ranges, and a key waited for only by a `LD Vx, K` at `PC`. Both hold at reset. -/

namespace Sys2Proof.Machine

/-! ## Memory, `PC` and stack: the updates that keep them -/

section updates
variable {s : State} (inv : s.Inv)
include inv

/-- `PC` may go to any word up to 0x10FE (R38). -/
theorem State.Inv.setPc {w : Word} (range : w.toNat ≤ 0x10FE) : (s.setPc w).Inv := by
  obtain ⟨canonical, -, entries⟩ := inv
  exact ⟨canonical, range, entries⟩

theorem State.Inv.setMem {m : List Host.Cell} (canonical : memWf m = true) : (s.setMem m).Inv := by
  obtain ⟨-, range, entries⟩ := inv
  exact ⟨canonical, range, entries⟩

/-- An entry popped is at most 0x1000, and the other entries stay. -/
theorem State.Inv.of_pop {t : State} {w : Word} (popped : s.pop = some (w, t)) : t.Inv ∧ w.toNat ≤ 0x1000 := by
  obtain ⟨canonical, range, entries⟩ := inv
  obtain ⟨-, rfl, rfl⟩ := State.pop_eq_some.mp popped
  exact ⟨⟨canonical, range, entries⟩, entries _ (Vector.mem_toList_iff.mpr (Vector.getElem_mem _))⟩

theorem State.Inv.of_push {t : State} {w : Word} (small : w.toNat ≤ 0x1000) (pushed : s.push w = some t) : t.Inv := by
  obtain ⟨canonical, range, entries⟩ := inv
  obtain ⟨room, rfl⟩ := State.push_eq_some.mp pushed
  refine ⟨canonical, range, fun v listed => ?_⟩
  obtain old | rfl := Vector.mem_or_eq_of_mem_set (hi := room) (Vector.mem_toList_iff.mp listed)
  · exact entries v (Vector.mem_toList_iff.mpr old)
  · exact small

section fetched
variable (fetched : s.pc.toNat ≤ 0xFFE)
include fetched

/-- After a fetch `pc + 2` is at most 0x1000, whatever was written but `PC` and the stack, memory in canonical form. -/
theorem State.Inv.advance {t : State} (canonical : memWf t.mem = true) (pc : t.pc = s.pc) (stack : t.stack = s.stack) :
    t.advance.Inv := by
  obtain ⟨-, -, entries⟩ := inv
  refine ⟨canonical, ?_, stack ▸ entries⟩
  rw [State.advance_pc, pc]
  bv_omega

/-- After a fetch `pc + 4` is at most 0x1002. -/
theorem State.Inv.skipIf (c : Bool) : (s.skipIf c).Inv := by
  cases c with
  | true => exact inv.setPc (by bv_omega)
  | false => exact inv.advance fetched inv.1 rfl rfl

end fetched

theorem State.Inv.whenRunning {t : State} (running : t.Inv) : (s.whenRunning t).Inv := by
  cases fault : s.fault with
  | none => rwa [State.whenRunning_running t fault]
  | some f => rwa [State.whenRunning_stopped t fault]

end updates

/-! ## Memory, `PC` and stack: the steps -/

/-- Every next state an outcome answers is in the invariant. -/
def KeepsInv (o : Host.Outcome State Fault Refusal) : Prop := ∀ t, o = .next t → t.Inv

theorem KeepsInv.next {t : State} (inv : t.Inv) : KeepsInv (.next t) := by
  rintro _ ⟨⟩
  exact inv

/-- Raising a fault writes neither memory nor `PC` nor the stack. -/
theorem KeepsInv.orRaise {α : Type} {r : Option α} {f : Fault} {s : State} {k : α → State} (inv : s.Inv)
    (kept : ∀ a, r = some a → (k a).Inv) : KeepsInv (orRaise r f s k) := by
  cases r with
  | some a => exact .next (kept a rfl)
  | none => exact .next inv

/-- Every instruction that was fetched keeps the invariant; the updates of other parts do not touch it. -/
theorem exec_keepsInv {s : State} (inv : s.Inv) (fetched : s.pc.toNat ≤ 0xFFE) (i : Instr) : KeepsInv (exec i s) := by
  cases i with
  | ret =>
    refine .orRaise inv fun r popped => ?_
    obtain ⟨kept, small⟩ := inv.of_pop popped
    exact kept.setPc (by omega)
  | call nnn =>
    refine .orRaise inv fun t pushed => (inv.of_push (by bv_omega) pushed).setPc ?_
    have := nnn.isLt
    rw [addrWord_toNat]
    omega
  | jp nnn =>
    refine .next (inv.setPc ?_)
    have := nnn.isLt
    rw [addrWord_toNat]
    omega
  | jpV0 nnn =>
    refine .next (inv.setPc ?_)
    have := nnn.isLt
    have := (s.reg 0#4).isLt
    rw [byteWord_add_addrWord_toNat]
    omega
  | seImm _ _ | sneImm _ _ | seReg _ _ | sneReg _ _ => exact .next (inv.skipIf fetched _)
  | skp _ | sknp _ => exact .orRaise inv fun _ _ => inv.skipIf fetched _
  | ldVxK x =>
    obtain ⟨-, -, answer⟩ | ⟨k, -, -, answer⟩ | ⟨k, -, -, answer⟩ | ⟨k, -, -, answer⟩ := exec_ldVxK_cases x s <;>
      rw [answer]
    · exact .next inv
    · exact .next inv
    · exact .next inv
    · exact .next (inv.advance fetched inv.1 rfl rfl)
  | ldB _ | storeRegs _ =>
    refine .orRaise inv fun m written => ?_
    have canonical := memWf_memWrite inv.1 written
    exact inv.advance fetched canonical rfl rfl
  | drw _ _ _ => exact .orRaise inv fun _ _ => inv.advance fetched inv.1 rfl rfl
  | loadRegs _ =>
    exact .orRaise inv fun _ _ => inv.advance fetched (by simpa using inv.1) (by simp) (by simp)
  | _ => exact .next (inv.advance fetched inv.1 rfl rfl)

theorem cycle_keepsInv {s : State} (inv : s.Inv) : KeepsInv (cycle s) := by
  obtain answer | ⟨-, -, answer⟩ | ⟨i, ⟨-, -, w, fetched, -⟩, answer⟩ := cycle_answers s <;> rw [answer]
  · exact .next inv
  · exact .next inv
  · exact exec_keepsInv inv (State.fetch_eq_some.mp fetched).1 i

theorem State.reset_inv : State.reset.Inv := by
  refine ⟨memWf_reset, by decide, fun w listed => ?_⟩
  rw [List.eq_of_mem_replicate listed]
  decide

theorem loadRom_inv {s : State} (inv : s.Inv) (bytes : List Byte) : (loadRom bytes s).Inv := by
  refine inv.whenRunning ?_
  split
  next => exact inv
  next fits =>
    have inside : 0x200 + bytes.length ≤ memSize := by simp only [romMax, memSize] at *; omega
    have canonical := memWf_memPuts bytes inv.1 (.inr inside)
    exact inv.setMem canonical

theorem applyEvent_keepsInv {s : State} (inv : s.Inv) (e : Event) : KeepsInv (applyEvent e s) := by
  cases e with
  | reset => exact .next State.reset_inv
  | cycle => exact cycle_keepsInv inv
  | loadFont =>
    have canonical := memWf_memPuts font (a := 0x000) inv.1 (.inr (by rw [font_length]; decide))
    exact .next (inv.whenRunning (inv.setMem canonical))
  | loadRom bytes => exact .next (loadRom_inv inv bytes)
  | snapshot => exact .next inv
  | timerTick | keyPress _ | keyRelease _ | endFrame => exact .next (inv.whenRunning inv)

/-- Settles O54: taking an event off the script touches none of the three parts, and every event keeps them. -/
theorem everyStepKeepsTheInvariant : Obligations.EveryStepKeepsTheInvariant :=
  fun s t inv answer => applyEvent_keepsInv (s := s.takeEvent) inv s.nextEvent t answer

/-! ## Waiting for a key -/

/-- The word fetched depends on `PC` and memory alone (R103). -/
theorem State.fetch_of_same {s t : State} (pc : t.pc = s.pc) (mem : Part.mem.Same s t) : t.fetch = s.fetch := by
  have bytes : ∀ a, memByte t.mem a = memByte s.mem a := mem
  simp only [State.fetch, pc, bytes]

/-- What leaves `PC`, memory and `WAIT` alone keeps the invariant. -/
theorem State.WaitInv.of_sameBut {ps : List Part} {s t : State} (inv : s.WaitInv) (same : SameBut ps s t)
    (kept : .wait ∉ ps ∧ .pc ∉ ps ∧ .mem ∉ ps) : t.WaitInv := by
  obtain ⟨wait, pc, mem⟩ := kept
  have sameWait : t.wait = s.wait := same .wait wait
  rw [State.WaitInv, sameWait, State.fetch_of_same (same .pc pc) (same .mem mem)]
  exact inv

theorem State.waitInv_of_idle {s : State} (idle : s.wait = .idle) : s.WaitInv := fun waits => absurd idle waits

/-- A core that executes any other instruction is not waiting. -/
theorem State.WaitInv.idle_of_executes {s : State} {i : Instr} (inv : s.WaitInv) (executes : s.Executes i)
    (other : ∀ x, i ≠ .ldVxK x) : s.wait = .idle := by
  obtain ⟨-, -, w, fetched, decoded⟩ := executes
  refine Decidable.byContradiction fun waits => ?_
  obtain ⟨v, x, fetchedV, decodedV⟩ := inv waits
  obtain rfl : w = v := Option.some.inj (fetched.symm.trans fetchedV)
  exact other x (Decoded.instr.inj (decoded.symm.trans decodedV))

/-- `WAIT` is written by `LD Vx, K` alone (R37). -/
theorem wait_not_mem_writesOf {i : Instr} (other : ∀ x, i ≠ .ldVxK x) : .wait ∉ writesOf i := by
  cases i with
  | ldVxK x => exact absurd rfl (other x)
  | _ => simp [writesOf]

/-- An executed `LD Vx, K` stays at its address while it waits, and ends `Idle` (R208). -/
theorem waitInv_of_ldVxK {s t : State} {x : RegIdx} (executes : s.Executes (.ldVxK x)) (inv : s.WaitInv)
    (answer : exec (.ldVxK x) s = .next t) : t.WaitInv := by
  obtain ⟨-, -, w, fetched, decoded⟩ := executes
  obtain ⟨-, -, waits⟩ | ⟨k, -, -, latches⟩ | ⟨k, -, -, waits⟩ | ⟨k, -, -, completes⟩ := exec_ldVxK_cases x s
  · obtain rfl := eq_of_next waits answer
    exact inv
  · obtain rfl := eq_of_next latches answer
    exact fun _ => ⟨w, x, fetched, decoded⟩
  · obtain rfl := eq_of_next waits answer
    exact inv
  · obtain rfl := eq_of_next completes answer
    exact State.waitInv_of_idle rfl

theorem waitInv_of_executes {s t : State} {i : Instr} (executes : s.Executes i) (inv : s.WaitInv)
    (answer : exec i s = .next t) : t.WaitInv := by
  by_cases waiting : ∃ x, i = .ldVxK x
  · obtain ⟨x, rfl⟩ := waiting
    exact waitInv_of_ldVxK executes inv answer
  · have other : ∀ x, i ≠ .ldVxK x := not_exists.mp waiting
    apply State.waitInv_of_idle
    obtain frame | ⟨f, rfl, -⟩ := (exec_spec i s).of_next answer
    · exact Eq.trans (frame .wait (wait_not_mem_writesOf other)) (inv.idle_of_executes executes other)
    · exact inv.idle_of_executes executes other

theorem cycle_waitInv {s t : State} (inv : s.WaitInv) (answer : cycle s = .next t) : t.WaitInv := by
  obtain same | ⟨-, -, fault⟩ | ⟨i, executes, executed⟩ := cycle_answers s
  · obtain rfl := eq_of_next same answer
    exact inv
  · obtain rfl := eq_of_next fault answer
    exact inv
  · exact waitInv_of_executes executes inv (executed.symm.trans answer)

theorem applyEvent_waitInv {e : Event} {s t : State} (inv : s.WaitInv) (noLoad : e.isLoad = false)
    (answer : applyEvent e s = .next t) : t.WaitInv := by
  cases e with
  | cycle => exact cycle_waitInv inv answer
  | loadFont | loadRom _ => exact Bool.noConfusion noLoad
  | reset =>
    obtain rfl := Host.Outcome.next.inj answer
    exact State.waitInv_of_idle rfl
  | snapshot | timerTick | keyPress _ | keyRelease _ | endFrame =>
    have frame : SameBut [.dt, .st, .keys, .drawFlag, .fault] s t :=
      (hostEvent_spec Event.noConfusion s).sameBut (by simp [hostWrites]) (by decide) answer
    exact inv.of_sameBut frame (by decide)

/-- Settles O55: only the executions of `LD Vx, K` write `WAIT`, and only its completion moves on from it. -/
theorem waitingMeansWaitForKeyAtPc : Obligations.WaitingMeansWaitForKeyAtPc :=
  fun s _ inv noLoad answer => applyEvent_waitInv (s := s.takeEvent) inv noLoad answer

/-! ## At reset -/

/-- Settles O56: memory lists nothing, `PC` is 0x200, every entry is 0, and `WAIT` is `Idle`. -/
theorem invariantsHoldAtReset : Obligations.InvariantsHoldAtReset :=
  ⟨State.reset_inv, State.waitInv_of_idle rfl⟩

/-- Settles O45: the quirk flags of the reset state are the parameters by definition. -/
theorem resetStateHasTheResetValues : Obligations.ResetStateHasTheResetValues :=
  ⟨State.reset_hasResetValues, rfl, rfl⟩

end Sys2Proof.Machine
end

section
/-! PROOFS. What single instructions do together with a second one, or for every value of a part they do not read:
`RND` (spec/42_alu.md R147), the same `DRW` twice (spec/44_display.md R190), a block store and the next fetch
(spec/20_memory.md R63), and the independence of the sound timer (spec/10_state.md R26). -/

namespace Sys2Proof.Machine

/-- Settles O13: the byte loaded is the bitwise conjunction of the draw and `nn`. -/
theorem rndLoadsAMaskedDraw : Obligations.RndLoadsAMaskedDraw := by
  refine ⟨fun w bits => decodeWord_rnd (fieldOp_of_mask rfl bits), fun s x nn => ⟨_, rfl, fun k _ => ?_, rfl,
    s.regsBut_setReg x _, rfl, s.sameBut_countDraw_advance x _⟩⟩
  rw [State.advance_reg, State.countDraw_reg, State.reg_setReg, if_pos rfl, BitVec.getLsbD_and]

/-! ## Drawing twice -/

section twice
variable {s : State} {vx vy : Byte} {n : Nat}

/-- A draw writes nothing that says which pixels a sprite covers. -/
theorem State.covers_afterDraw {drawn : Vector (BitVec 64) 32 × Bool} {px : Col} {py : Row} :
    (s.afterDraw drawn).Covers vx vy n px py ↔ s.Covers vx vy n px py := Iff.rfl

theorem State.fb_afterDraw (drawn : Vector (BitVec 64) 32 × Bool) : (s.afterDraw drawn).fb = drawn.1 := rfl

variable (rows : n ≤ 32)
include rows

/-- What the first draw flipped the second flips back (R190). -/
theorem State.fb_draw_twice : ((s.afterDraw (s.drawAtI vx vy n)).drawAtI vx vy n).1 = s.fb := by
  refine fb_ext fun px py => ?_
  by_cases covered : s.Covers vx vy n px py
  · rw [State.pixel_drawAtI_of_covers rows (State.covers_afterDraw.mpr covered), State.fb_afterDraw,
      State.pixel_drawAtI_of_covers rows covered, Bool.not_not]
  · rw [State.pixel_drawAtI_of_not_covers rows (covered <| State.covers_afterDraw.mp ·), State.fb_afterDraw,
      State.pixel_drawAtI_of_not_covers rows covered]

/-- The second draw collides with a pixel that the first turned on (R190). -/
theorem State.hit_draw_twice : ((s.afterDraw (s.drawAtI vx vy n)).drawAtI vx vy n).2 = true ↔
    ∃ px py, pixel s.fb px py = false ∧ pixel (s.afterDraw (s.drawAtI vx vy n)).fb px py = true := by
  rw [State.drawAtI_hit rows]
  refine exists₂_congr fun px py => ?_
  rw [State.covers_afterDraw, State.fb_afterDraw]
  by_cases covered : s.Covers vx vy n px py
  · simp [State.pixel_drawAtI_of_covers rows covered, covered]
  · simp [State.pixel_drawAtI_of_not_covers rows covered, covered]

end twice

theorem flagByte_eq_one {b : Bool} : flagByte b = 1#8 ↔ b = true := by
  cases b <;> decide

/-- Settles O20: the second draw covers the same pixels, so it flips back what the first flipped, and it collides
with exactly those that the first turned on. -/
theorem drawingTwiceRestoresTheScreen : Obligations.DrawingTwiceRestoresTheScreen := by
  intro s t u x y n fits sameX sameY first second
  have rows : n.toNat ≤ 32 := by have := n.isLt; omega
  obtain rfl := eq_of_next (exec_drw_of_fits x y fits) first
  rw [exec_drw_of_fits (s := s.afterDraw _) x y fits, sameX, sameY] at second
  obtain rfl := Host.Outcome.next.inj second
  refine ⟨State.fb_draw_twice rows, ?_⟩
  rw [← State.hit_draw_twice rows, ← flagByte_eq_one, ← State.reg_vF_afterDraw, vF]

/-! ## The bytes stored are fetched -/

/-- Settles O36: the two bytes at the address are `V[j]` and `V[j + 1]`, as the block store wrote them. -/
theorem storesAreFetchedAtOnce : Obligations.StoresAreFetchedAtOnce := by
  intro s t x j fits below answer
  have hx := x.isLt
  obtain ⟨t', completes, stored, -⟩ := (blockStoreWritesRegisters.2 s x).1 fits
  obtain rfl := eq_of_next completes answer
  have address : (s.i + j.setWidth 16).toNat = s.i.toNat + j.toNat := by
    rw [BitVec.toNat_add, BitVec.toNat_setWidth]
    omega
  have next : (j + 1#4).toNat = j.toNat + 1 := by bv_omega
  have high := stored j (by omega)
  have low := stored (j + 1#4) (by omega)
  rw [next, ← Nat.add_assoc] at low
  refine State.fetch_eq_some.mpr ⟨?_, ?_⟩
  · rw [State.setPc_pc, address]
    omega
  · rw [State.setPc_pc, address, State.setPc_byte, State.setPc_byte, high, low]
    rfl

/-! ## The sound timer is not read -/

section soundTimer
variable {s t : State} {b : Byte}

/-- An instruction that can fault does the same with another `ST`, when its test does and what follows does. -/
theorem orRaise_setSt {α : Type} {r r' : Option α} {f : Fault} {k k' : α → State} {g : α → α}
    (test : r' = r.map g) (rest : ∀ a, k' (g a) = (k a).setSt b) (answer : orRaise r f s k = .next t) :
    orRaise r' f (s.setSt b) k' = .next (t.setSt b) := by
  subst test
  obtain ⟨a, rfl, rfl⟩ | ⟨rfl, rfl⟩ := orRaise_eq_next.mp answer
  · exact congrArg Host.Outcome.next (rest a)
  · rfl

theorem State.pop_setSt (s : State) (b : Byte) : (s.setSt b).pop = s.pop.map fun r => (r.1, r.2.setSt b) := by
  cases popped : s.pop with
  | none => exact State.pop_eq_none.mpr (State.pop_eq_none (s := s) |>.mp popped)
  | some r =>
    obtain ⟨nonempty, top, rest⟩ := State.pop_eq_some.mp popped
    exact State.pop_eq_some.mpr ⟨nonempty, top, by rw [rest]; rfl⟩

theorem State.push_setSt (s : State) (w : Word) (b : Byte) : (s.setSt b).push w = (s.push w).map (·.setSt b) := by
  cases pushed : s.push w with
  | none => exact State.push_eq_none.mpr (State.push_eq_none (s := s) |>.mp pushed)
  | some t =>
    obtain ⟨room, rfl⟩ := State.push_eq_some.mp pushed
    exact State.push_eq_some.mpr ⟨room, rfl⟩

theorem State.skipIf_setSt (s : State) (c : Bool) (b : Byte) : (s.setSt b).skipIf c = (s.skipIf c).setSt b := by
  cases c <;> rfl

theorem exec_ldVxK_setSt {x : RegIdx} (answer : exec (.ldVxK x) s = .next t) :
    exec (.ldVxK x) (s.setSt b) = .next (t.setSt b) := by
  obtain ⟨idle, noKey, answered⟩ | ⟨k, idle, first, answered⟩ | ⟨k, latched, down, answered⟩ |
    ⟨k, latched, up, answered⟩ := exec_ldVxK_cases x s
  all_goals obtain rfl := eq_of_next answered answer
  · exact exec_ldVxK_of_no_key x idle noKey
  · exact exec_ldVxK_of_first_key x idle first
  · exact exec_ldVxK_of_held x latched down
  · exact exec_ldVxK_of_released x latched up

end soundTimer

/-- Settles O35: every update but that of `ST` commutes with writing `ST`, and no test reads it. -/
theorem noInstructionReadsTheSoundTimer : Obligations.NoInstructionReadsTheSoundTimer := by
  intro i s t b other answer
  cases i with
  | ldSTVx x => exact absurd rfl (other x)
  | ret => exact orRaise_setSt (s.pop_setSt b) (fun _ => rfl) answer
  | call _ => exact orRaise_setSt (s.push_setSt _ b) (fun _ => rfl) answer
  | skp _ | sknp _ => exact orRaise_setSt (g := id) Option.map_id_apply.symm (fun _ => s.skipIf_setSt _ b) answer
  | drw _ _ _ | ldB _ | storeRegs _ | loadRegs _ =>
    exact orRaise_setSt (g := id) Option.map_id_apply.symm (fun _ => rfl) answer
  | ldVxK x => exact exec_ldVxK_setSt answer
  | seImm _ _ | sneImm _ _ | seReg _ _ | sneReg _ _ =>
    obtain rfl := Host.Outcome.next.inj answer
    exact congrArg Host.Outcome.next (s.skipIf_setSt _ b)
  | _ =>
    obtain rfl := Host.Outcome.next.inj answer
    rfl

end Sys2Proof.Machine
end

section
/-! PROOFS. Memory as a whole (spec/00_scope.md R10; spec/20_memory.md R50, R58): a block written reads back, and the
canonical form of a memory is determined by what it reads. -/

namespace Sys2Proof.Machine

/-! ## Blocks -/

/-- A block just written is what a read of its range gives (R58). -/
theorem memBytes_memPuts (m : List Host.Cell) (a : Nat) (bs : List Byte) :
    memBytes (memPuts m a bs) a bs.length = bs := by
  refine List.ext_getElem (memBytes_length ..) fun j _ inside => ?_
  rw [memBytes_getElem, memByte_memPuts_add m a inside, ← List.getElem_eq_getD]

/-- Settles O47: both accesses make the same bounds test. -/
theorem memoryBlocksReadBack : Obligations.MemoryBlocksReadBack := by
  refine fun m a bs => ⟨fun inside => ?_, fun beyond => ?_⟩
  · refine ⟨memPuts m a bs, memWrite_eq_some.mpr ⟨inside, rfl⟩,
      memRead_eq_some.mpr ⟨inside, (memBytes_memPuts m a bs).symm⟩, fun c outside => ?_⟩
    rw [memByte_memPuts, if_neg (by omega)]
  · exact ⟨memWrite_eq_none.mpr beyond, memRead_eq_none.mpr beyond⟩

/-! ## The canonical form -/

theorem memSortedFrom_cons {lo k : Nat} {b : Byte} {rest : List Host.Cell} :
    memSortedFrom lo ((k, b) :: rest) = true ↔
      lo ≤ k ∧ k < memSize ∧ b ≠ resetByte k ∧ memSortedFrom (k + 1) rest = true := by
  simp [memSortedFrom, and_assoc]

theorem memByte_cons_self (k : Nat) (b : Byte) (rest : List Host.Cell) : memByte ((k, b) :: rest) k = b :=
  if_pos rfl

/-- Below its first entry a sorted memory has its reset contents. -/
theorem memByte_of_lt {lo a : Nat} {m : List Host.Cell} (sorted : memSortedFrom lo m = true) (below : a < lo) :
    memByte m a = resetByte a := by
  induction m generalizing lo with
  | nil => rfl
  | cons cell rest ih =>
    obtain ⟨k, b⟩ := cell
    obtain ⟨from_lo, -, -, sortedRest⟩ := memSortedFrom_cons.mp sorted
    have other : ¬ k = a := by omega
    rw [memByte, if_neg other]
    exact ih sortedRest (by omega)

/-- The first entry of a sorted memory is at the lowest address that differs from its reset contents. -/
theorem first_le_of_memByte_ne {lo k a : Nat} {b : Byte} {rest : List Host.Cell}
    (sorted : memSortedFrom lo ((k, b) :: rest) = true) (differs : memByte ((k, b) :: rest) a ≠ resetByte a) :
    k ≤ a := by
  have sortedFromFirst : memSortedFrom k ((k, b) :: rest) = true :=
    memSortedFrom_cons.mpr ⟨Nat.le_refl k, (memSortedFrom_cons.mp sorted).2⟩
  exact Nat.le_of_not_lt fun below => differs (memByte_of_lt sortedFromFirst below)

/-- Two rests above one first entry read the same when the whole memories do. -/
theorem memByte_rest_eq {k : Nat} {b c : Byte} {restM restN : List Host.Cell}
    (sortedM : memSortedFrom (k + 1) restM = true) (sortedN : memSortedFrom (k + 1) restN = true)
    (reads : ∀ a, memByte ((k, b) :: restM) a = memByte ((k, c) :: restN) a) (a : Nat) :
    memByte restM a = memByte restN a := by
  by_cases below : a < k + 1
  · rw [memByte_of_lt sortedM below, memByte_of_lt sortedN below]
  · have other : ¬ k = a := by omega
    have readsA := reads a
    rwa [memByte, if_neg other, memByte, if_neg other] at readsA

/-- Two sorted memories that read the same have the same first entry, and then rests that read the same. -/
theorem eq_of_memSortedFrom {lo : Nat} {m n : List Host.Cell} (sortedM : memSortedFrom lo m = true)
    (sortedN : memSortedFrom lo n = true) (reads : ∀ a, memByte m a = memByte n a) : m = n := by
  induction m generalizing lo n with
  | nil =>
    cases n with
    | nil => rfl
    | cons cell rest =>
      obtain ⟨k, b⟩ := cell
      obtain ⟨-, -, listed, -⟩ := memSortedFrom_cons.mp sortedN
      exact absurd ((reads k).trans (memByte_cons_self k b rest)).symm listed
  | cons cell restM ih =>
    obtain ⟨k, b⟩ := cell
    obtain ⟨-, -, listedK, sortedRestM⟩ := memSortedFrom_cons.mp sortedM
    cases n with
    | nil => exact absurd ((memByte_cons_self k b restM).symm.trans (reads k)) listedK
    | cons cell restN =>
      obtain ⟨l, c⟩ := cell
      obtain ⟨-, -, listedL, sortedRestN⟩ := memSortedFrom_cons.mp sortedN
      have atK : memByte ((l, c) :: restN) k = b := (reads k).symm.trans (memByte_cons_self k b restM)
      have atL : memByte ((k, b) :: restM) l = c := (reads l).trans (memByte_cons_self l c restN)
      obtain rfl : k = l := Nat.le_antisymm (first_le_of_memByte_ne sortedM (atL ▸ listedL))
        (first_le_of_memByte_ne sortedN (atK ▸ listedK))
      obtain rfl : b = c := atK.symm.trans (memByte_cons_self k c restN)
      rw [ih sortedRestM sortedRestN (memByte_rest_eq sortedRestM sortedRestN reads)]

/-- Settles O48: both memories are sorted from address 0. -/
theorem canonicalMemoriesAreUnique : Obligations.CanonicalMemoriesAreUnique :=
  fun _ _ sortedM sortedN reads => eq_of_memSortedFrom sortedM sortedN reads

end Sys2Proof.Machine
end

section
/-! PROOFS. The step (spec/40_cycle.md R100 to R105; spec/60_exceptions.md R246): a step that executes an
instruction, the host's placement of a word, and the settled core (spec/70_reset_and_hazards.md R264). -/

namespace Sys2Proof.Machine

/-! ## A step that executes an instruction -/

theorem step_of_cycle {s : State} (next : s.nextEvent = .cycle) : step s = cycle s.takeEvent := by
  rw [step, next, applyEvent]

/-- What a `CYCLE` executes depends on `FAULT`, the gate and the word fetched (R100). -/
theorem State.Executes.of_sameBut {ps : List Part} {s t : State} {i : Instr} (executes : s.Executes i)
    (same : SameBut ps s t)
    (kept : .fault ∉ ps ∧ .drawFlag ∉ ps ∧ .displayWait ∉ ps ∧ .pc ∉ ps ∧ .mem ∉ ps) : t.Executes i := by
  obtain ⟨fault, drawFlag, displayWait, pc, mem⟩ := kept
  have sameFault : t.fault = s.fault := same .fault fault
  have sameDraw : t.drawFlag = s.drawFlag := same .drawFlag drawFlag
  have sameWait : t.displayWait = s.displayWait := same .displayWait displayWait
  rw [State.Executes, State.gateClosed, sameFault, sameDraw, sameWait,
    State.fetch_of_same (same .pc pc) (same .mem mem)]
  exact executes

/-- A step that is a `CYCLE` executes the instruction on the state with the event taken off the script. -/
theorem step_of_executes {s : State} {i : Instr} (next : s.nextEvent = .cycle) (executes : s.Executes i) :
    step s = exec i s.takeEvent :=
  (step_of_cycle next).trans
    (cycle_of_executes (executes.of_sameBut (s.sameBut_setScript s.script.tail) (by decide)))

theorem decodeWord_of_decode {hi lo : Byte} {i : Instr} (decoded : decode [hi, lo] = .instr i []) :
    decodeWord (wordOfBytes hi lo) = .instr i := by
  rw [decode] at decoded
  split at decoded
  next _ word =>
    cases decoded
    exact word
  next => cases decoded

/-- Settles O25: the fetch gives the word of the two bytes, which decodes to the instruction. -/
theorem stepRunsTheDecodedInstruction : Obligations.StepRunsTheDecodedInstruction := by
  intro s i next running gateOpen inRange decoded _
  have executes : s.Executes i := ⟨running, State.gateClosed_eq_false.mpr gateOpen, _,
    State.fetch_eq_some.mpr ⟨inRange, rfl⟩, decodeWord_of_decode decoded⟩
  exact ⟨step_of_executes next executes,
    fun empty => (step_of_empty_script empty).trans (cycle_of_executes executes)⟩

/-! ## Placing a word -/

@[simp] theorem tableWord_toNat (w : Word) : tableWord 16 w.toNat = w := by
  rw [tableWord, Nat.mod_eq_of_lt w.isLt, BitVec.ofNat_toNat, BitVec.setWidth_eq]

section ready
variable (s : State)

theorem State.readyToFetch_pc_le : s.readyToFetch.pc.toNat ≤ 0xFFE := by
  change (if s.pc.toNat ≤ 0xFFE then s.pc else 0x0200#16).toNat ≤ 0xFFE
  split
  next inRange => exact inRange
  next => decide

theorem State.readyToFetch_gateClosed : s.readyToFetch.gateClosed = false := by
  change ((if s.gateClosed then false else s.drawFlag) && s.displayWait) = false
  cases closed : s.gateClosed with
  | true => rfl
  | false => exact closed

theorem State.readyToFetch_nextEvent : s.readyToFetch.nextEvent = .cycle := by
  cases script : s.script with
  | nil => simp [State.readyToFetch, State.nextEvent, script]
  | cons e es => cases e <;> simp [State.readyToFetch, State.nextEvent, script]

theorem State.sameBut_readyToFetch : SameBut [.pc, .fault, .drawFlag, .script] s s.readyToFetch := by
  intro p unlisted
  cases p with
  | pc | fault | drawFlag | script => exact absurd (by decide) unlisted
  | regs | mem => exact fun _ => rfl
  | _ => exact rfl

end ready

/-- A part that turns out the same can be taken off the list. -/
theorem SameBut.of_cons {p : Part} {ps : List Part} {s t : State} (same : SameBut (p :: ps) s t) (kept : p.Same s t) :
    SameBut ps s t := by
  intro q unlisted
  by_cases isP : q = p
  · exact isP ▸ kept
  · exact same q (by simp [isP, unlisted])

/-- A state that would fetch anyway is ready as it stands (log entry 3). -/
theorem State.readyToFetch_same {s : State} (next : s.nextEvent = .cycle) (running : s.fault = none)
    (gate : s.gateClosed = false) (inRange : s.pc.toNat ≤ 0xFFE) : SameBut [] s s.readyToFetch := by
  have pc : s.readyToFetch.pc = s.pc := if_pos inRange
  have fault : s.readyToFetch.fault = s.fault := running.symm
  have drawFlag : s.readyToFetch.drawFlag = s.drawFlag := by simp [State.readyToFetch, gate]
  have script : s.readyToFetch.script = s.script := by simp [State.readyToFetch, next]
  exact (((s.sameBut_readyToFetch.of_cons pc).of_cons fault).of_cons drawFlag).of_cons script

/-- The two bytes stored are fetched as the word (R53, R58). -/
theorem State.fetch_storeWord {s : State} (m : List Host.Cell) (w : Word) (inRange : s.pc.toNat ≤ 0xFFE) :
    (s.setMem (storeWord m s.pc.toNat w)).fetch = some w := by
  refine State.fetch_eq_some.mpr ⟨inRange, ?_⟩
  have high : (s.setMem (storeWord m s.pc.toNat w)).byte s.pc.toNat = highByte w :=
    memByte_memPuts_add (bs := [highByte w, lowByte w]) m s.pc.toNat (j := 0) (by simp)
  have low : (s.setMem (storeWord m s.pc.toNat w)).byte (s.pc.toNat + 1) = lowByte w :=
    memByte_memPuts_add (bs := [highByte w, lowByte w]) m s.pc.toNat (j := 1) (by simp)
  rw [State.setMem_pc, high, low, wordOfBytes_bytes]

/-- Settles O53: the placed word is fetched, since the state is ready, and decodes to the instruction it encodes. -/
theorem placedWordIsTheNextToRun : Obligations.PlacedWordIsTheNextToRun := by
  rintro s p i rfl
  rw [State.withFetchWord, tableWord_toNat, State.placeWord]
  have executes : (s.readyToFetch.setMem (storeWord s.mem s.readyToFetch.pc.toNat (encode i))).Executes i :=
    ⟨rfl, s.readyToFetch_gateClosed, encode i, State.fetch_storeWord s.mem _ s.readyToFetch_pc_le, decodeWord_encode i⟩
  refine ⟨step_of_executes s.readyToFetch_nextEvent executes,
    (s.sameBut_readyToFetch.trans (State.sameBut_setMem _ _)).mono (by decide),
    s.readyToFetch.bytesBut_setMem_memPuts _ [highByte (encode i), lowByte (encode i)],
    fun next running gate inRange => ?_⟩
  exact (State.readyToFetch_same next running gate inRange).trans (State.sameBut_setMem _ _)

/-! ## The settled core -/

/-- Settles O37: the jump to its own address answers the same state, whether or not the gate lets it execute. -/
theorem settledCoreStaysSettled : Obligations.SettledCoreStaysSettled := by
  intro s a n ⟨pc, running, fetched⟩
  refine applyEvents_replicate_of_fixed ?_ n
  cases gate : s.gateClosed with
  | true => exact cycle_of_closed gate
  | false =>
    have executes : s.Executes (.jp a) := ⟨running, gate, _, fetched, decodeWord_encode (.jp a)⟩
    refine (cycle_of_executes executes).trans ?_
    rw [exec, execJp, ← pc]
    rfl

end Sys2Proof.Machine
end

section
/-! PROOFS. The host's events in a row: ticks (spec/60_exceptions.md R248), inputs that commute (R246), and the wait
for a key from press to release (spec/45_keypad_timers.md R211). -/

namespace Sys2Proof.Machine

/-! ## Ticks in a row -/

/-- Settles O39: each tick lowers both timers by one, clamped at 0 (R241). -/
theorem manyTicksReachZeroAndStay : Obligations.ManyTicksReachZeroAndStay := by
  intro n
  induction n with
  | zero => exact fun s _ => ⟨s, rfl, rfl, rfl, SameBut.refl _ s⟩
  | succ n ih =>
    intro s running
    obtain ⟨t, ticked, dt, st, frame⟩ := (timerTickDecrementsClamped s).1 running
    obtain ⟨u, rest, dtRest, stRest, frameRest⟩ := ih t (Eq.trans (frame .fault (by decide)) running)
    refine ⟨u, ?_, by omega, by omega, (frame.trans frameRest).mono (by decide)⟩
    rw [List.replicate_succ, applyEvents_cons ticked, rest]

/-! ## Inputs that commute -/

/-- On every core the event is the update `f`, which leaves `FAULT` alone, or nothing when the core is stopped. -/
def ActsAs (e : Event) (f : State → State) : Prop :=
  (∀ s, applyEvent e s = .next (s.whenRunning (f s))) ∧ ∀ s, (f s).fault = s.fault

theorem timerTick_actsAs : ActsAs .timerTick fun s => (s.setDt (decTimer s.dt)).setSt (decTimer s.st) :=
  ⟨fun _ => rfl, fun _ => rfl⟩

theorem endFrame_actsAs : ActsAs .endFrame (·.setDrawFlag false) :=
  ⟨fun _ => rfl, fun _ => rfl⟩

/-- An event of the key `k` writes that key. -/
theorem keyEvent_actsAs {e : Event} {k : Key} (keyEvent : e ∈ [Event.keyPress k, .keyRelease k]) :
    ∃ b, ActsAs e (·.setKey k b) := by
  obtain rfl | rfl : e = .keyPress k ∨ e = .keyRelease k := by simpa using keyEvent
  · exact ⟨true, fun _ => rfl, fun _ => rfl⟩
  · exact ⟨false, fun _ => rfl, fun _ => rfl⟩

section pairs
variable {e d : Event} {f g : State → State} (first : ActsAs e f) (second : ActsAs d g)
include first second

theorem applyEvents_pair (s : State) : applyEvents [e, d] s = .next (s.whenRunning (g (f s))) := by
  obtain ⟨answerE, keepsFault⟩ := first
  obtain ⟨answerD, -⟩ := second
  rw [applyEvents_cons (answerE s), applyEvents_cons (answerD _), applyEvents]
  cases fault : s.fault with
  | none => simp only [State.whenRunning_running _ fault, State.whenRunning_running _ ((keepsFault s).trans fault)]
  | some _ => simp only [State.whenRunning_stopped _ fault]

/-- Two events commute when their updates do. -/
theorem applyEvents_comm (commute : ∀ s, g (f s) = f (g s)) (s : State) :
    applyEvents [e, d] s = applyEvents [d, e] s := by
  rw [applyEvents_pair first second, applyEvents_pair second first, commute]

end pairs

/-- Of two writes of one key the last stays. -/
theorem State.setKey_setKey (s : State) (k : Key) (b c : Bool) : (s.setKey k b).setKey k c = s.setKey k c := by
  simp only [State.setKey, Vector.set_set]

theorem State.setKey_comm (s : State) {k l : Key} (different : k ≠ l) (b c : Bool) :
    (s.setKey k b).setKey l c = (s.setKey l c).setKey k b := by
  have indices : k.val ≠ l.val := fun same => different (Fin.ext same)
  simp only [State.setKey, Vector.set_comm _ _ indices]

/-- Writing the value a key has changes nothing. -/
theorem State.setKey_self {s : State} {k : Key} {b : Bool} (same : s.key k = b) : s.setKey k b = s := by
  subst same
  simp only [State.setKey, State.key, Vector.set_getElem_self]

/-- Settles O41: the inputs write different parts, or different keys; of two writes of one key the last stays. -/
theorem hostInputsCommute : Obligations.HostInputsCommute := by
  refine fun s k l => ⟨fun e keyE d timing => ?_, ?_, fun different e keyE d keyD => ?_, fun e keyE d keyD => ?_⟩
  · obtain ⟨b, actsE⟩ := keyEvent_actsAs keyE
    obtain rfl | rfl : d = .timerTick ∨ d = .endFrame := by simpa using timing
    · exact applyEvents_comm actsE timerTick_actsAs (fun _ => rfl) s
    · exact applyEvents_comm actsE endFrame_actsAs (fun _ => rfl) s
  · exact applyEvents_comm timerTick_actsAs endFrame_actsAs (fun _ => rfl) s
  · obtain ⟨b, actsE⟩ := keyEvent_actsAs keyE
    obtain ⟨c, actsD⟩ := keyEvent_actsAs keyD
    exact applyEvents_comm actsE actsD (fun s => s.setKey_comm different b c) s
  · obtain ⟨b, actsE⟩ := keyEvent_actsAs keyE
    obtain ⟨c, actsD⟩ := keyEvent_actsAs keyD
    rw [applyEvents_pair actsE actsD, State.setKey_setKey, actsD.1]

/-! ## The wait for a key from press to release -/

theorem applyEvents_append {es ds : List Event} {s t : State} (answer : applyEvents es s = .next t) :
    applyEvents (es ++ ds) s = applyEvents ds t := by
  induction es generalizing s with
  | nil =>
    obtain rfl := Host.Outcome.next.inj answer
    rfl
  | cons e es ih =>
    obtain ⟨u, first, rest⟩ := applyEvents_cons_eq_next.mp answer
    rw [List.cons_append, applyEvents_cons first, ih rest]

/-- A `CYCLE` that latches the pressed key `k`, the lowest one down, whatever the number of `CYCLE`s after it. -/
theorem latches_pressed_key {s : State} {x : RegIdx} {k : Key} (executes : s.Executes (.ldVxK x))
    (idle : s.wait = .idle) (up : ∀ j : Key, j.val ≤ k.val → s.key j = false) (m : Nat) :
    applyEvents (List.replicate (m + 1) .cycle) (s.setKey k true) =
      .next ((s.setKey k true).setWait (.latched k)) := by
  have pressed : (s.setKey k true).Executes (.ldVxK x) := executes.of_sameBut (s.sameBut_setKey k true) (by decide)
  have held : ((s.setKey k true).setWait (.latched k)).Executes (.ldVxK x) :=
    pressed.of_sameBut (State.sameBut_setWait _ (.latched k)) (by decide)
  have down : (s.setKey k true).key k = true := (s.key_setKey k k true).trans (if_pos rfl)
  have first : (s.setKey k true).firstKey = some k := by
    refine State.firstKey_eq_some.mpr ⟨down, fun j lower => ?_⟩
    have other : j ≠ k := fun same => Nat.ne_of_lt lower (congrArg Fin.val same)
    exact (s.key_setKey k j true).trans ((if_neg other).trans (up j (Nat.le_of_lt lower)))
  have latches : applyEvent .cycle (s.setKey k true) = .next ((s.setKey k true).setWait (.latched k)) :=
    (cycle_of_executes pressed).trans (exec_ldVxK_of_first_key x idle first)
  rw [List.replicate_succ, applyEvents_cons latches]
  exact applyEvents_replicate_of_fixed (e := .cycle) ((cycle_of_executes held).trans (exec_ldVxK_of_held x rfl down)) m

/-- Settles O24: the press and the release of `k` leave the keypad as it was, and between them `k` stays latched. -/
theorem waitForKeyCompletesOnRelease : Obligations.WaitForKeyCompletesOnRelease := by
  refine fun s x executes idle => ⟨fun allUp => ?_, fun k up m => ?_⟩
  · exact applyEvents_replicate_of_fixed
      ((cycle_of_executes executes).trans (exec_ldVxK_of_no_key x idle (State.firstKey_eq_none.mpr allUp)))
  have running : s.fault = none := executes.1
  have upK : s.key k = false := up k (Nat.le_refl _)
  have press : applyEvent (.keyPress k) s = .next (s.setKey k true) := next_whenRunning running _
  have release : applyEvent (.keyRelease k) ((s.setKey k true).setWait (.latched k)) =
      .next (s.setWait (.latched k)) := by
    have restored : ((s.setKey k true).setKey k false) = s := by rw [State.setKey_setKey, State.setKey_self upK]
    refine (next_whenRunning (s := (s.setKey k true).setWait (.latched k)) running _).trans ?_
    exact congrArg (fun u : State => Host.Outcome.next (u.setWait (.latched k))) restored
  have waiting : (s.setWait (.latched k)).Executes (.ldVxK x) :=
    executes.of_sameBut (s.sameBut_setWait (.latched k)) (by decide)
  have completes : applyEvent .cycle (s.setWait (.latched k)) = .next ((s.setWait (.latched k)).afterKey x k) :=
    (cycle_of_executes waiting).trans (exec_ldVxK_of_released x rfl upK)
  refine ⟨(s.setWait (.latched k)).afterKey x k, ?_, ?_, rfl, rfl, State.regsBut_afterKey _ x k, ?_⟩
  · rw [List.cons_append, applyEvents_cons press, applyEvents_append (latches_pressed_key executes idle up m),
      applyEvents_cons release, applyEvents_cons completes, applyEvents]
  · rw [State.reg_afterKey, keyByte_toNat]
  · have frame : SameBut [.wait, .regs, .pc] s ((s.setWait (.latched k)).afterKey x k) :=
      ((s.sameBut_setWait (.latched k)).trans (State.sameBut_afterKey _ x k)).mono (by decide)
    exact frame.of_cons idle.symm

end Sys2Proof.Machine
end
